-- ==== Sys2Proof/Word.lean ====
section
/-! DEFINITION. The word types of the block (00_scope R7: bit 0 is the least significant bit, every value unsigned). -/

namespace Sys2Proof

/-- A byte: a received or transmitted character (10_state R23). -/
abbrev Byte := BitVec 8

/-- A register value: every device register is 16 bits wide (20_memory R57). -/
abbrev HalfWord := BitVec 16

/-- A physical bus address of `ADDR_WIDTH` = 32 bits (00_scope R6, 10_state R22). -/
abbrev Addr := BitVec 32

/-- The offset of an access inside a device window (20_memory R54): 0 to 15 covers both windows. -/
abbrev Offset := BitVec 4

/-- The number of an aggregator input line, 0 to 3 (`AGG_NLINES` = 4, 41_aggregator R138). -/
abbrev Line := BitVec 2

/-- A mask with one bit per aggregator input line (10_state R28). -/
abbrev LineMask := BitVec 4

/-- A format A access key (30_encoding R80). -/
abbrev AccessKey := BitVec 36

/-- A format E event key (30_encoding R84). -/
abbrev EventKey := BitVec 16

/-- The data operand of a bus write: up to 8 bytes, zero above the access's width (30_encoding R80). -/
abbrev Data := BitVec 64

end Sys2Proof
end

