-- ==== Sys2Proof/Config.lean ====
section
/-! DEFINITION. The parameters of the block (00_scope R6): the types of the settings a machine is built with, and the one
open function of the serial fields. The settings themselves are a field of State (assumption log 4), so that a claim
about every state is a claim about every setting. -/

namespace Sys2Proof.Config

/-- `OVERLAP_WINNER` (20_memory R51): the device that answers 0xF0000010 and 0xF0000011. -/
inductive OverlapWinner where
  | aggregator
  | serial
deriving DecidableEq, Repr

/-- `MMIO_BYTE_ORDER` (20_memory R58): which CPU byte of a 2-byte access holds bits [7:0]. -/
inductive ByteOrder where
  | big
  | little
deriving DecidableEq, Repr

/-- `BAD_WIDTH_POLICY` (20_memory R55): what an access of a width other than 2 bytes does. -/
inductive BadWidthPolicy where
  | fault
  | ignore
deriving DecidableEq, Repr

/-- `RX_OVERRUN_POLICY` (40_serial R113): what a delivery does while a byte is pending. -/
inductive RxOverrunPolicy where
  | overwrite
  | fault
deriving DecidableEq, Repr

/-- `AGG_INPUT_MODE` (41_aggregator R139): whether an input line is read as a raise event or as a held level. -/
inductive AggInputMode where
  | event
  | level
deriving DecidableEq, Repr

/-- `TIMER_LINE_MODE` (42_timer R151): whether an assertion pulses the timer's line or holds it. -/
inductive TimerLineMode where
  | pulse
  | hold
deriving DecidableEq, Repr

/-- The settings a machine is built with. No step changes them. `AGG_OUT_ON_RESET` has no field: the spec names no value
but `unchanged` (10_state R31). -/
structure Params where
  overlapWinner    : OverlapWinner
  byteOrder        : ByteOrder
  badWidthPolicy   : BadWidthPolicy
  rxOverrunPolicy  : RxOverrunPolicy
  aggInputMode     : AggInputMode
  aggAssertOnLower : Bool
  timerLineMode    : TimerLineMode
deriving DecidableEq, Repr

/-- The settings of `State.reset`: the spec's own settings where 00_scope R6 gives one, its simulator defaults for
`OVERLAP_WINNER` and `TIMER_LINE_MODE`, and big for `MMIO_BYTE_ORDER`. DESIGN CHOICE and PRESUMED, unsafe for a claim that
rests on them: assumption log 4, 5 and 6. -/
def Params.default : Params where
  overlapWinner    := .aggregator
  byteOrder        := .big
  badWidthPolicy   := .fault
  rxOverrunPolicy  := .overwrite
  aggInputMode     := .event
  aggAssertOnLower := false
  timerLineMode    := .pulse

/-- `SERIAL_IRQ_FN` (10_state R27): the level of the serial device's output line as a function of `rxReady`, `rxByte` and
`lastTxByte`, and of nothing else. It has no body, so a claim holds whatever the function is (assumption log 7, safe). -/
opaque serialIrqFn : Bool → Byte → Byte → Bool

end Sys2Proof.Config
end

