-- ==== Sys2Proof/Machine/Map.lean ====
section
/-! DEFINITION. The numeric literals of the spec's parameter table (00_scope R5, R6) and the decode of an address to a
device and an offset (20_memory R50, R51, R52, R54). -/

namespace Sys2Proof.Machine

open Sys2Proof.Config

/-- `SERIAL_BASE` (20_memory R50). -/
def serialBase : Addr := 0xF0000008#32
/-- `SERIAL_SPAN`: bytes decoded (20_memory R50). -/
def serialSpan : Nat := 16
/-- `AGG_BASE` (20_memory R50). -/
def aggBase : Addr := 0xF0000010#32
/-- `AGG_SPAN` (20_memory R50). -/
def aggSpan : Nat := 2
/-- `ACCESS_WIDTH`: the width in bytes of every register access (20_memory R55). -/
def accessWidth : Nat := 2
/-- `SERIAL_IRQ_INPUT`: the CPU interrupt input of the serial line (60_exceptions R163). -/
def serialIrqInput : Nat := 4
/-- `TIMER_IRQ_INPUT`: the CPU interrupt input of the timer line (60_exceptions R163). -/
def timerIrqInput : Nat := 1
/-- `TIMER_FREQ_HZ`: the tick rate passed to the countdown primitive (42_timer R152); no rule depends on it. -/
def timerFreqHz : Nat := 50000000
/-- `ROM_BASE` (20_memory R62). -/
def romBase : Addr := 0x00001000#32
/-- `ROM_SIZE`: 128 KiB (20_memory R62). -/
def romSize : Nat := 0x20000
/-- `OCRAM_BASE` (20_memory R62). -/
def ocramBase : Addr := 0x10000000#32
/-- `OCRAM_SIZE`: 4 KiB (20_memory R62). -/
def ocramSize : Nat := 0x1000
/-- `EXTRAM_BASE` (20_memory R62). -/
def extramBase : Addr := 0x2FFFF000#32
/-- `PAGE_SIZE` (70_reset R195, decision D20; assumption log 12). -/
def pageSize : Nat := 4096

/-- The two devices an access can reach (20_memory R52). -/
inductive Dev where
  | serial
  | agg
deriving DecidableEq, Repr

/-- Whether `a` is one of the `span` addresses from `base` on. -/
def inWindow (base : Addr) (span : Nat) (a : Addr) : Bool :=
  decide (base.toNat ≤ a.toNat) && decide (a.toNat < base.toNat + span)

/-- Whether `a` is in the serial window (20_memory R50). -/
def inSerialWindow (a : Addr) : Bool := inWindow serialBase serialSpan a

/-- Whether `a` is in the aggregator window (20_memory R50). -/
def inAggWindow (a : Addr) : Bool := inWindow aggBase aggSpan a

/-- The offset of `a` from `base` (20_memory R54). -/
def offsetFrom (base a : Addr) : Offset := (a - base).setWidth 4

/-- The device that answers start address `a` and the offset it is given, or none where the block does not decode `a`
(20_memory R51, R52, R53). -/
def route (w : OverlapWinner) (a : Addr) : Option (Dev × Offset) :=
  if w = .aggregator ∧ inAggWindow a = true then some (.agg, offsetFrom aggBase a)
  else if inSerialWindow a then some (.serial, offsetFrom serialBase a)
  else none

end Sys2Proof.Machine
end

