-- ==== Sys2Proof/Syntax.lean ====
section
/-! DEFINITION. The operations of the block: what an agent hands it (`Input`), and what that spells (`Instr`, one
constructor per mnemonic of opcode_table.json). -/

namespace Sys2Proof

/-- The direction of a bus access (20_memory R52). -/
inductive Dir where
  | read
  | write
deriving DecidableEq, Repr

/-- The widths other than 2 bytes that an access key can carry (30_encoding R80): 1, 4 and 8 bytes. -/
inductive WrongSize where
  | one
  | four
  | eight
deriving DecidableEq, Repr

/-- The width field of an access key (30_encoding R80). -/
inductive Size where
  | two
  | wrong (z : WrongSize)
deriving DecidableEq, Repr

/-- What an agent hands the block: a bus access (key and data operand, 30_encoding R80), a side-band event (30_encoding
R84), or an instruction fetch, which no rule gives a meaning (20_memory R65). A read's data operand is 0. -/
inductive Input where
  | access (key : AccessKey) (data : Data)
  | event (key : EventKey)
  | fetch (addr : Addr)
deriving DecidableEq, Repr

/-- What a fault or a refusal records: the access key or the event key that caused it (60_exceptions R160). The spec gives
an instruction fetch no key, and the model records its address: DESIGN CHOICE, safe (assumption log 24). -/
inductive Key where
  | access (key : AccessKey)
  | event (key : EventKey)
  | fetch (addr : Addr)
deriving DecidableEq, Repr

/-- The key of an input: all of it but the data operand; of a fetch, its address (DESIGN CHOICE, assumption log 24). -/
def Input.key : Input → Key
  | .access k _ => .access k
  | .event k => .event k
  | .fetch a => .fetch a

/-- The operations of opcode_table.json, one constructor per mnemonic. The four rows of SERIAL.UNDEF.RD, and of
SERIAL.UNDEF.WR, are ranges of the operand `off`; the four rows of BADWIDTH are ranges of `z` and `addr`. -/
inductive Instr where
  | rxreadyRd
  | rxreadyWr (v : HalfWord)
  | txreadyRd
  | txreadyWr (v : HalfWord)
  | rxbyteRd
  | rxbyteWr (v : HalfWord)
  | txbyteRd
  | txbyteWr (v : HalfWord)
  | serialUndefRd (off : Offset)
  | serialUndefWr (off : Offset) (v : HalfWord)
  | pendingRd
  | pendingWr (v : HalfWord)
  | aggUndefRd
  | aggUndefWr (v : HalfWord)
  | badWidth (z : WrongSize) (addr : Addr) (wdata : Option Data)
  | evRx (b : Byte)
  | evRaise (i : Line)
  | evLower (i : Line)
  | evExpire
  | evReset
deriving DecidableEq, Repr

/-- The mnemonics of opcode_table.json as names. -/
inductive Opcode where
  | rxreadyRd | rxreadyWr | txreadyRd | txreadyWr | rxbyteRd | rxbyteWr | txbyteRd | txbyteWr
  | serialUndefRd | serialUndefWr | pendingRd | pendingWr | aggUndefRd | aggUndefWr | badWidth
  | evRx | evRaise | evLower | evExpire | evReset
deriving DecidableEq, Repr

/-- The mnemonic of an operation. -/
def Instr.opcode : Instr → Opcode
  | .rxreadyRd => .rxreadyRd
  | .rxreadyWr _ => .rxreadyWr
  | .txreadyRd => .txreadyRd
  | .txreadyWr _ => .txreadyWr
  | .rxbyteRd => .rxbyteRd
  | .rxbyteWr _ => .rxbyteWr
  | .txbyteRd => .txbyteRd
  | .txbyteWr _ => .txbyteWr
  | .serialUndefRd _ => .serialUndefRd
  | .serialUndefWr _ _ => .serialUndefWr
  | .pendingRd => .pendingRd
  | .pendingWr _ => .pendingWr
  | .aggUndefRd => .aggUndefRd
  | .aggUndefWr _ => .aggUndefWr
  | .badWidth _ _ _ => .badWidth
  | .evRx _ => .evRx
  | .evRaise _ => .evRaise
  | .evLower _ => .evLower
  | .evExpire => .evExpire
  | .evReset => .evReset

/-- Why the decoder gives an input no operation (60_exceptions R160). -/
inductive Reject where
  | reservedKeyBit
  | notThisBlock
  | reservedEvent
  | noSuchLine
  | fetchFromMmio
deriving DecidableEq, Repr

/-- The answer of the decoder. -/
inductive Decoded where
  | instr (i : Instr)
  | rejected (r : Reject)
deriving DecidableEq, Repr

/-- A row of opcode_table.json: a key `k` matches it when `k &&& mask = pattern`; a row with a condition stands only under
that `OVERLAP_WINNER` (30_encoding R86). -/
structure Row (n : Nat) where
  opcode    : Opcode
  pattern   : BitVec n
  mask      : BitVec n
  condition : Option Config.OverlapWinner
deriving DecidableEq, Repr

end Sys2Proof
end

