-- ==== Sys2Proof/Decode.lean ====
section
/-! DEFINITION. The decoder from access keys and event keys to operations (30_encoding R80 to R86), total and rejecting by
name; the rows of opcode_table.json; the encoder; and the reading of a table word that the host asks for. -/

namespace Sys2Proof

open Sys2Proof.Config Sys2Proof.Machine

/-! ### Fields of an access key (30_encoding R80) -/

/-- `addr`, bits [31:0]. -/
def keyAddr (k : AccessKey) : Addr := k.extractLsb' 0 32

/-- `W`, bit [32]. -/
def keyWrite (k : AccessKey) : Bool := k.getLsbD 32

/-- `res`, bit [33]. -/
def keyReserved (k : AccessKey) : Bool := k.getLsbD 33

/-- `sz`, bits [35:34]. -/
def keySize (k : AccessKey) : Size :=
  if k.extractLsb' 34 2 = 0#2 then .wrong .one
  else if k.extractLsb' 34 2 = 1#2 then .two
  else if k.extractLsb' 34 2 = 2#2 then .wrong .four
  else .wrong .eight

/-! ### Fields of an event key (30_encoding R84) -/

/-- `kind`, bits [15:12]. -/
def eventKind (k : EventKey) : BitVec 4 := k.extractLsb' 12 4

/-- `res`, bits [11:8]. -/
def eventReserved (k : EventKey) : BitVec 4 := k.extractLsb' 8 4

/-- `payload`, bits [7:0]. -/
def eventPayload (k : EventKey) : Byte := k.extractLsb' 0 8

/-! ### The data operand -/

/-- The data bits an access of a wrong width carries: the low `8 * 2^sz` bits (30_encoding R80). -/
def wrongSizeData : WrongSize → Data → Data
  | .one, d => (d.setWidth 8).setWidth 64
  | .four, d => (d.setWidth 32).setWidth 64
  | .eight, d => d

/-- The dispatch hands a device `v = D[15:0]` (20_memory R52, 30_encoding R82). -/
def deviceData (d : Data) : HalfWord := d.extractLsb' 0 16

/-! ### The decoder -/

/-- The serial device's operation at an offset: the four registers at 0, 2, 4 and 6, every other offset undefined
(10_state R25, 30_encoding R86 item 5). -/
def serialInstr (off : Offset) (write : Bool) (v : HalfWord) : Instr :=
  if off = 0#4 then (if write then .rxreadyWr v else .rxreadyRd)
  else if off = 2#4 then (if write then .txreadyWr v else .txreadyRd)
  else if off = 4#4 then (if write then .rxbyteWr v else .rxbyteRd)
  else if off = 6#4 then (if write then .txbyteWr v else .txbyteRd)
  else (if write then .serialUndefWr off v else .serialUndefRd off)

/-- The aggregator's operation at an offset: PENDING at 0, offset 1 undefined (41_aggregator R130, 30_encoding R86
item 4). -/
def aggInstr (off : Offset) (write : Bool) (v : HalfWord) : Instr :=
  if off = 0#4 then (if write then .pendingWr v else .pendingRd)
  else (if write then .aggUndefWr v else .aggUndefRd)

/-- The operation of a 2-byte access at an offset of a device (20_memory R52). -/
def registerInstr : Dev → Offset → Bool → HalfWord → Instr
  | .serial => serialInstr
  | .agg => aggInstr

/-- Decoding a bus access, in the order of 30_encoding R86: reserved bit, window, width, register. -/
def decodeAccess (w : OverlapWinner) (k : AccessKey) (d : Data) : Decoded :=
  if keyReserved k then .rejected .reservedKeyBit
  else match route w (keyAddr k) with
    | none => .rejected .notThisBlock
    | some (dev, off) =>
      match keySize k with
      | .two => .instr (registerInstr dev off (keyWrite k) (deviceData d))
      | .wrong z => .instr (.badWidth z (keyAddr k) (if keyWrite k then some (wrongSizeData z d) else none))

/-- The payload of a raise or a lower as a line number, or its refusal (30_encoding R85, 41_aggregator R138). -/
def decodeLine (p : Byte) (mk : Line → Instr) : Decoded :=
  if p.extractLsb' 2 6 = 0#6 then .instr (mk (p.extractLsb' 0 2)) else .rejected .noSuchLine

/-- The payload of an expiry or a reset must be 0 (30_encoding R85). -/
def decodeBare (p : Byte) (i : Instr) : Decoded :=
  if p = 0#8 then .instr i else .rejected .reservedKeyBit

/-- Decoding a side-band event by its kind (30_encoding R84, R85). Where a key has a reserved bit set and another reason to
be refused as well (a reserved kind, or a raise or a lower of line 4 or above), the reserved bit is the reason given:
DEDUCED from the order of 60_exceptions R168 for bus accesses, safe (assumption log 11). -/
def decodeEvent (k : EventKey) : Decoded :=
  if eventReserved k ≠ 0#4 then .rejected .reservedKeyBit
  else if eventKind k = 1#4 then .instr (.evRx (eventPayload k))
  else if eventKind k = 2#4 then decodeLine (eventPayload k) .evRaise
  else if eventKind k = 3#4 then decodeLine (eventPayload k) .evLower
  else if eventKind k = 4#4 then decodeBare (eventPayload k) .evExpire
  else if eventKind k = 5#4 then decodeBare (eventPayload k) .evReset
  else .rejected .reservedEvent

/-- An instruction fetch is refused: from a window by name (20_memory R65), from elsewhere as not the block's (20_memory
R53). -/
def decodeFetch (a : Addr) : Reject :=
  if inSerialWindow a || inAggWindow a then .fetchFromMmio else .notThisBlock

/-- The decoder: total on every input. -/
def decode (w : OverlapWinner) : Input → Decoded
  | .access k d => decodeAccess w k d
  | .event k => decodeEvent k
  | .fetch a => .rejected (decodeFetch a)

/-! ### The encoder -/

/-- The `sz` field of a width (30_encoding R80). -/
def sizeBits : Size → BitVec 2
  | .wrong .one => 0#2
  | .two => 1#2
  | .wrong .four => 2#2
  | .wrong .eight => 3#2

/-- The access key of a width, a direction and an address (30_encoding R80). -/
def accessKey (z : Size) (write : Bool) (a : Addr) : AccessKey :=
  sizeBits z ++ 0#1 ++ BitVec.ofBool write ++ a

/-- The event key of a kind and a payload (30_encoding R84). -/
def eventKey (kind : BitVec 4) (payload : Byte) : EventKey := kind ++ 0#4 ++ payload

/-- The payload of a line number (30_encoding R85). -/
def linePayload (i : Line) : Byte := 0#6 ++ i

/-- A 2-byte read of an address. -/
def load16 (a : Addr) : Input := .access (accessKey .two false a) 0#64

/-- A 2-byte write of `v` at an address. -/
def store16 (a : Addr) (v : HalfWord) : Input := .access (accessKey .two true a) (v.setWidth 64)

/-- The address of a serial offset (20_memory R54). -/
def serialAddr (off : Offset) : Addr := serialBase + off.setWidth 32

/-- The address of an aggregator offset (20_memory R54). -/
def aggAddr (off : Offset) : Addr := aggBase + off.setWidth 32

/-- The input that spells an operation (30_encoding R81, R85, R89). -/
def encode : Instr → Input
  | .rxreadyRd => load16 (serialAddr 0#4)
  | .rxreadyWr v => store16 (serialAddr 0#4) v
  | .txreadyRd => load16 (serialAddr 2#4)
  | .txreadyWr v => store16 (serialAddr 2#4) v
  | .rxbyteRd => load16 (serialAddr 4#4)
  | .rxbyteWr v => store16 (serialAddr 4#4) v
  | .txbyteRd => load16 (serialAddr 6#4)
  | .txbyteWr v => store16 (serialAddr 6#4) v
  | .serialUndefRd off => load16 (serialAddr off)
  | .serialUndefWr off v => store16 (serialAddr off) v
  | .pendingRd => load16 (aggAddr 0#4)
  | .pendingWr v => store16 (aggAddr 0#4) v
  | .aggUndefRd => load16 (aggAddr 1#4)
  | .aggUndefWr v => store16 (aggAddr 1#4) v
  | .badWidth z a none => .access (accessKey (.wrong z) false a) 0#64
  | .badWidth z a (some d) => .access (accessKey (.wrong z) true a) d
  | .evRx b => .event (eventKey 1#4 b)
  | .evRaise i => .event (eventKey 2#4 (linePayload i))
  | .evLower i => .event (eventKey 3#4 (linePayload i))
  | .evExpire => .event (eventKey 4#4 0#8)
  | .evReset => .event (eventKey 5#4 0#8)

/-! ### The rows of opcode_table.json -/

/-- The format A rows that read, in the table's order, but for BADWIDTH. -/
def readRows : List (Row 36) := [
  ⟨.rxreadyRd, 0x4F0000008#36, 0xFFFFFFFFF#36, none⟩,
  ⟨.txreadyRd, 0x4F000000A#36, 0xFFFFFFFFF#36, none⟩,
  ⟨.rxbyteRd, 0x4F000000C#36, 0xFFFFFFFFF#36, none⟩,
  ⟨.txbyteRd, 0x4F000000E#36, 0xFFFFFFFFF#36, none⟩,
  ⟨.serialUndefRd, 0x4F0000009#36, 0xFFFFFFFF9#36, none⟩,
  ⟨.serialUndefRd, 0x4F0000012#36, 0xFFFFFFFFE#36, none⟩,
  ⟨.serialUndefRd, 0x4F0000014#36, 0xFFFFFFFFC#36, none⟩,
  ⟨.serialUndefRd, 0x4F0000010#36, 0xFFFFFFFFE#36, some .serial⟩,
  ⟨.pendingRd, 0x4F0000010#36, 0xFFFFFFFFF#36, some .aggregator⟩,
  ⟨.aggUndefRd, 0x4F0000011#36, 0xFFFFFFFFF#36, some .aggregator⟩]

/-- The format A rows that write, in the table's order, but for BADWIDTH. -/
def writeRows : List (Row 36) := [
  ⟨.rxreadyWr, 0x5F0000008#36, 0xFFFFFFFFF#36, none⟩,
  ⟨.txreadyWr, 0x5F000000A#36, 0xFFFFFFFFF#36, none⟩,
  ⟨.rxbyteWr, 0x5F000000C#36, 0xFFFFFFFFF#36, none⟩,
  ⟨.txbyteWr, 0x5F000000E#36, 0xFFFFFFFFF#36, none⟩,
  ⟨.serialUndefWr, 0x5F0000009#36, 0xFFFFFFFF9#36, none⟩,
  ⟨.serialUndefWr, 0x5F0000012#36, 0xFFFFFFFFE#36, none⟩,
  ⟨.serialUndefWr, 0x5F0000014#36, 0xFFFFFFFFC#36, none⟩,
  ⟨.serialUndefWr, 0x5F0000010#36, 0xFFFFFFFFE#36, some .serial⟩,
  ⟨.pendingWr, 0x5F0000010#36, 0xFFFFFFFFF#36, some .aggregator⟩,
  ⟨.aggUndefWr, 0x5F0000011#36, 0xFFFFFFFFF#36, some .aggregator⟩]

/-- The format A rows of BADWIDTH, which read and write. -/
def badWidthRows : List (Row 36) := [
  ⟨.badWidth, 0x0F0000008#36, 0xEFFFFFFF8#36, none⟩,
  ⟨.badWidth, 0x8F0000008#36, 0xAFFFFFFF8#36, none⟩,
  ⟨.badWidth, 0x0F0000010#36, 0xEFFFFFFF8#36, none⟩,
  ⟨.badWidth, 0x8F0000010#36, 0xAFFFFFFF8#36, none⟩]

/-- The format A rows of opcode_table.json. -/
def accessRows : List (Row 36) := readRows ++ writeRows ++ badWidthRows

/-- The format E rows of opcode_table.json. -/
def eventRows : List (Row 16) := [
  ⟨.evRx, 0x1000#16, 0xFF00#16, none⟩,
  ⟨.evRaise, 0x2000#16, 0xFFFC#16, none⟩,
  ⟨.evLower, 0x3000#16, 0xFFFC#16, none⟩,
  ⟨.evExpire, 0x4000#16, 0xFFFF#16, none⟩,
  ⟨.evReset, 0x5000#16, 0xFFFF#16, none⟩]

/-- Whether row `r` stands under `w` and key `k` matches it. -/
def rowMatches {n : Nat} (w : OverlapWinner) (k : BitVec n) (r : Row n) : Bool :=
  decide (k &&& r.mask = r.pattern) && decide (r.condition = none ∨ r.condition = some w)

/-! ### The host's table words -/

/-- The input a table word stands for: at most 16 bits an event key, more an access key whose data operand is 0; none where
the number does not fit an access key. -/
def tableInput (nbits word : Nat) : Option Input :=
  if nbits ≤ 16 ∧ word < 2 ^ 16 then some (.event (BitVec.ofNat 16 word))
  else if word < 2 ^ 36 then some (.access (BitVec.ofNat 36 word) 0#64)
  else none

/-- What the decoder reads from a table word, under the `OVERLAP_WINNER` of `State.reset` (assumption log 3). -/
def decodeTableWord (nbits w : Nat) : Option Instr :=
  match tableInput nbits w with
  | none => none
  | some x =>
    match decode Params.default.overlapWinner x with
    | .instr i => some i
    | .rejected _ => none

end Sys2Proof
end

