-- ==== Sys2Proof/Machine/State.lean ====
section
/-! DEFINITION. The state of the block and its environment as plain data (10_state, 00_scope R9), the reasons a step can
stop (60_exceptions R160), and the state after reset (70_reset R190, R191). -/

namespace Sys2Proof.Machine

open Sys2Proof.Config

/-- The serial device's three stored fields (10_state R23). -/
structure Serial where
  rxReady    : Bool
  rxByte     : Byte
  lastTxByte : Byte
deriving DecidableEq, Repr

/-- The interrupt aggregator's one stored field (10_state R28). -/
structure Agg where
  pending : LineMask
deriving DecidableEq, Repr

/-- A diagnostic log record (40_serial R100): `v` is absent for a read. -/
structure LogRecord where
  dev : Dev
  off : Offset
  dir : Dir
  v   : Option HalfWord
deriving DecidableEq, Repr

/-- The output lines a device asserts (41_aggregator R137, 42_timer R150). -/
inductive OutLine where
  | aggOut
  | timerOut
deriving DecidableEq, Repr

/-- What a step can emit (00_scope R8, R9). -/
inductive Event where
  | tx (b : Byte)
  | acceptInput
  | log (r : LogRecord)
  | assertLine (l : OutLine)
deriving DecidableEq, Repr

/-- The environment record (10_state R30, R31, R33, R34): what the block has sent out since power-on, and the levels the
input lines were last driven to (written under `AGG_INPUT_MODE = level` only). -/
structure Env where
  tx           : List Byte
  accepts      : Nat
  log          : List LogRecord
  aggIn        : LineMask
  aggOut       : Bool
  aggAsserts   : Nat
  timerAsserts : Nat
deriving DecidableEq, Repr

/-- The value a bus read returns to the CPU: `8n` bits for a read of `n` bytes (00_scope R8, 30_encoding R80). -/
inductive ReadValue where
  | one (v : BitVec 8)
  | two (v : HalfWord)
  | four (v : BitVec 32)
  | eight (v : BitVec 64)
deriving DecidableEq, Repr

/-- What the last step gave beside the next state (00_scope R9): the value a read returned and the events emitted. -/
structure StepResult where
  ret    : Option ReadValue
  events : List Event
deriving DecidableEq, Repr

/-- What the external image loader answers for a configured kernel (70_reset R193, R194, R195): a fatal answer, or the
entry address and the high-water mark `H` of the loaded image. -/
inductive Kernel where
  | missing
  | zeroSize
  | unreadable
  | loaded (entry : Addr) (highWater : Nat)
deriving DecidableEq, Repr

/-- The boot configuration (10_state R37, 70_reset R194, R195), immutable after boot. `cpuVariant` is `CPU_VARIANT` (a
configured name, or none for the default); `cpuResolves` is the external core's answer for it; `cmdline` is accepted and
read by no rule. -/
structure BootConfig where
  ramSize     : Nat
  cpuVariant  : Option (List Byte)
  cpuResolves : Bool
  kernel      : Option Kernel
  initrdSize  : Option Nat
  cmdline     : Option (List Byte)
deriving DecidableEq, Repr

/-- What machine assembly leaves (70_reset R193, R194, R195): the configuration, the recorded bootstrap program counter and
where the ramdisk was placed. -/
structure Boot where
  config      : BootConfig
  bootstrapPC : Addr
  ramdiskAt   : Option Nat
deriving DecidableEq, Repr

/-- The state. `cpuResetPc` is the value the reset handler last wrote into the CPU's program counter (70_reset R192): the
CPU's own program counter is outside the block (10_state R21). `schedule` is the model's own field: the operations the
agents take next, head first (60_exceptions R175, assumption log 1). -/
structure State where
  serial     : Serial
  agg        : Agg
  env        : Env
  out        : StepResult
  cpuResetPc : Addr
  boot       : Boot
  cfg        : Params
  schedule   : List Input
deriving DecidableEq, Repr

/-- The four fields a host snapshot saves and restores (10_state R36). -/
structure Snapshot where
  rxReady    : Bool
  rxByte     : Byte
  lastTxByte : Byte
  pending    : LineMask
deriving DecidableEq, Repr

/-- The faults of the block (60_exceptions R160), each with the key that caused it. -/
inductive Fault where
  /-- Raised by an access to a window of a width other than 2 bytes under `BAD_WIDTH_POLICY = fault` (20_memory R55). Safe:
  the source gives such an access no behaviour. -/
  | badWidth (key : AccessKey)
  /-- Raised by a delivery while a byte is pending, under `RX_OVERRUN_POLICY = fault` only (40_serial R113). Safe: it rules
  out a run in which the backend breaks its duty. -/
  | rxOverrun (key : EventKey)
deriving DecidableEq, Repr

/-- The refusals (60_exceptions R160), each with what caused it: the access key or the event key, and, DESIGN CHOICE where
the spec gives the cause no key, the address of an instruction fetch and the `ramSize` of a configuration (assumption log
24, safe). -/
inductive Refusal where
  /-- Raised by `exec` for an operation that has no meaning yet; no arm raises it now. Safe. -/
  | notModelled (mnemonic : String)
  /-- Raised by the decoder for an access or a fetch whose start address is in neither window (20_memory R53). Safe. -/
  | notThisBlock (cause : Key)
  /-- Raised by the decoder for a reserved bit of a key, and for a nonzero payload of an expiry or a reset (30_encoding R80,
  R84, R85). Safe. -/
  | reservedKeyBit (cause : Key)
  /-- Raised by the decoder for event kinds 0x0 and 0x6 to 0xF (30_encoding R85). Safe. -/
  | reservedEvent (cause : Key)
  /-- Raised by the decoder for a raise or a lower of line 4 or above (41_aggregator R138). Safe. -/
  | noSuchLine (cause : Key)
  /-- Raised by the decoder for an instruction fetch from a window (20_memory R65), with the fetch address. Safe. -/
  | fetchFromMmio (cause : Key)
  /-- Raised by machine assembly for an external RAM that would reach the windows (20_memory R63), with its size. Safe. -/
  | ramOverlapsMmio (ramSize : Nat)
deriving DecidableEq, Repr

/-- The fatal configuration errors (60_exceptions R162): no launch state exists. -/
inductive FatalError where
  | unresolvableCpuVariant
  | kernelMissing
  | kernelZeroSize
  | kernelUnreadable
  | ramdiskDoesNotFit
deriving DecidableEq, Repr

/-- The outcome of machine assembly (70_reset R194). -/
inductive Assembly where
  | launched (s : State)
  | fatal (e : FatalError)
  | refused (r : Refusal)
deriving DecidableEq, Repr

/-- The boot configuration of `State.reset`: no kernel, no ramdisk (70_reset R193, case E of 95_test_vectors), and the
external RAM size of the vectors V60 to V62. DESIGN CHOICE, unsafe for a claim that rests on it (assumption log 8). -/
def BootConfig.default : BootConfig where
  ramSize     := 0x00100000
  cpuVariant  := none
  cpuResolves := true
  kernel      := none
  initrdSize  := none
  cmdline     := none

/-- The state right after reset, which is also the power-on state (70_reset R190, R191). -/
def State.reset : State where
  serial     := { rxReady := false, rxByte := 0x00#8, lastTxByte := 0x00#8 }
  agg        := { pending := 0b0000#4 }
  env        := { tx := [], accepts := 0, log := [], aggIn := 0b0000#4, aggOut := false, aggAsserts := 0,
                  timerAsserts := 0 }
  out        := { ret := none, events := [] }
  cpuResetPc := 0x00001000#32
  boot       := { config := BootConfig.default, bootstrapPC := 0x00001000#32, ramdiskAt := none }
  cfg        := Params.default
  schedule   := []

end Sys2Proof.Machine
end

