-- ==== Sys2Proof/Machine/Operands.lean ====
section
/-! DEFINITION. Operand forms: which bits of the write data a register uses (30_encoding R82), how a field is extended to
the value a read returns (30_encoding R83), and how the bus lays a register value on the CPU's bytes (20_memory R58). -/

namespace Sys2Proof.Machine

open Sys2Proof.Config

/-- TXBYTE uses `v[7:0]` (30_encoding R82). -/
def txOperand (v : HalfWord) : Byte := v.extractLsb' 0 8

/-- PENDING uses `v[3:0]` (30_encoding R82). -/
def ackOperand (v : HalfWord) : LineMask := v.extractLsb' 0 4

/-- `zext_16` of a flag (30_encoding R83). -/
def zextFlag (b : Bool) : HalfWord := (BitVec.ofBool b).setWidth 16

/-- `zext_16` of a byte (30_encoding R83). -/
def zextByte (b : Byte) : HalfWord := b.setWidth 16

/-- `zext_16` of the pending mask (30_encoding R83). -/
def zextMask (m : LineMask) : HalfWord := m.setWidth 16

/-- The 0 that a logged-and-ignored read of each width returns (20_memory R55, 60_exceptions R161), at that width
(30_encoding R80). -/
def zeroValue : Size → ReadValue
  | .wrong .one => .one 0#8
  | .two => .two 0x0000#16
  | .wrong .four => .four 0#32
  | .wrong .eight => .eight 0#64

/-- The width of a read value in bytes (30_encoding R80). -/
def readBytes : ReadValue → Nat
  | .one _ => 1
  | .two _ => 2
  | .four _ => 4
  | .eight _ => 8

/-- The low byte of a read value. -/
def lowByte : ReadValue → Byte
  | .one v => v
  | .two v => v.extractLsb' 0 8
  | .four v => v.extractLsb' 0 8
  | .eight v => v.extractLsb' 0 8

/-- `1 << i`: the mask of line `i` (41_aggregator R135). -/
def lineBit (i : Line) : LineMask := 1#4 <<< i.toNat

/-- The CPU's bytes at `addr` and `addr + 1` for a 16-bit device value (20_memory R58). -/
def cpuBytes : ByteOrder → HalfWord → Byte × Byte
  | .big, v => (v.extractLsb' 8 8, v.extractLsb' 0 8)
  | .little, v => (v.extractLsb' 0 8, v.extractLsb' 8 8)

/-- The 16-bit device value of the CPU's bytes at `addr` and `addr + 1` (20_memory R58). -/
def deviceValue : ByteOrder → Byte × Byte → HalfWord
  | .big, (b0, b1) => b0 ++ b1
  | .little, (b0, b1) => b1 ++ b0

end Sys2Proof.Machine
end

