-- ==== Sys2Proof/Machine/Ops.lean ====
section
/-! DEFINITION. The spec's pseudocode primitives over the state (00_scope R8) and the shared operations the meanings are
written with: emitting an event, returning a value, logging an access, the undefined-offset access, the machine reset,
and the host's snapshot. The block takes no CPU exception (60_exceptions R160, R166), so there is no exception entry. -/

namespace Sys2Proof.Machine

open Sys2Proof.Config

/-- The start of a step: nothing returned, nothing emitted yet (00_scope R9). -/
def startStep (s : State) : State := { s with out := { ret := none, events := [] } }

/-- What an event adds to the environment record (10_state R34, 41_aggregator R137, 42_timer R150). -/
def recordEvent (e : Env) : Event → Env
  | .tx b => { e with tx := e.tx ++ [b] }
  | .acceptInput => { e with accepts := e.accepts + 1 }
  | .log r => { e with log := e.log ++ [r] }
  | .assertLine .aggOut => { e with aggOut := true, aggAsserts := e.aggAsserts + 1 }
  | .assertLine .timerOut => { e with timerAsserts := e.timerAsserts + 1 }

/-- `emit` (00_scope R8): the event is recorded and listed in the step's result. -/
def emit (ev : Event) (s : State) : State :=
  { s with env := recordEvent s.env ev, out := { s.out with events := s.out.events ++ [ev] } }

/-- The value a read returns to the CPU (00_scope R8, R9): of a register always 2 bytes (20_memory R57). -/
def returnValue (v : ReadValue) (s : State) : State := { s with out := { s.out with ret := some v } }

/-- A log record of an access: of a write with its data, of a read without (40_serial R100). -/
def logRecord (dev : Dev) (off : Offset) : Option HalfWord → LogRecord
  | some v => { dev := dev, off := off, dir := .write, v := some v }
  | none => { dev := dev, off := off, dir := .read, v := none }

/-- A logged-and-ignored write (60_exceptions R161): a log record, no other effect. -/
def ignoredWrite (dev : Dev) (off : Offset) (v : HalfWord) (s : State) : State :=
  emit (.log (logRecord dev off (some v))) s

/-- A logged-and-ignored read (60_exceptions R161): a log record, and 0 returned at the access's width. -/
def ignoredRead (dev : Dev) (off : Offset) (z : Size) (s : State) : State :=
  returnValue (zeroValue z) (emit (.log (logRecord dev off none)) s)

/-- An access of width `z` to an undefined offset of a device: a write where data is given, a read where none is
(40_serial R109, R110, 41_aggregator R133, R134). -/
def undefinedAccess (dev : Dev) (off : Offset) (z : Size) : Option HalfWord → State → State
  | some v, s => ignoredWrite dev off v s
  | none, s => ignoredRead dev off z s

/-- The reset of the block and the reset handler (70_reset R190, R192): the device fields to zero, the bootstrap program
counter forced into the CPU, the environment record left as it is. -/
def machineReset (s : State) : State :=
  { s with
    serial := { rxReady := false, rxByte := 0x00#8, lastTxByte := 0x00#8 }
    agg := { pending := 0b0000#4 }
    cpuResetPc := s.boot.bootstrapPC }

/-- What a host snapshot saves (10_state R36). -/
def saveSnapshot (s : State) : Snapshot :=
  { rxReady := s.serial.rxReady, rxByte := s.serial.rxByte, lastTxByte := s.serial.lastTxByte, pending := s.agg.pending }

/-- A host restore: exactly the four persisted fields, nothing emitted (10_state R36). A move of the host between steps. -/
def restoreSnapshot (p : Snapshot) (s : State) : State :=
  { s with
    serial := { rxReady := p.rxReady, rxByte := p.rxByte, lastTxByte := p.lastTxByte }
    agg := { pending := p.pending } }

/-- The refusal of an input the decoder rejects, with the key that caused it (60_exceptions R160). -/
def refusalOf (x : Input) : Reject → Refusal
  | .reservedKeyBit => .reservedKeyBit x.key
  | .notThisBlock => .notThisBlock x.key
  | .reservedEvent => .reservedEvent x.key
  | .noSuchLine => .noSuchLine x.key
  | .fetchFromMmio => .fetchFromMmio x.key

/-- The next operation of the schedule and the state without it; none where no agent acts. -/
def takeInput (s : State) : Option (Input × State) :=
  match s.schedule with
  | [] => none
  | x :: rest => some (x, { s with schedule := rest })

end Sys2Proof.Machine
end

