-- ==== Sys2Proof/Machine/Flags.lean ====
section
/-! DEFINITION. The block's two kinds of status flags (10_state R35): `rxReady` and the pending bits, with what sets and
clears each, and the input line levels that `AGG_INPUT_MODE = level` keeps. -/

namespace Sys2Proof.Machine

open Sys2Proof.Config

/-- A byte is stored and becomes pending (40_serial R111). -/
def setReceived (b : Byte) (s : State) : State :=
  { s with serial := { s.serial with rxReady := true, rxByte := b } }

/-- The pending byte is taken: `rxByte` keeps its value (40_serial R105). -/
def clearRxReady (s : State) : State := { s with serial := { s.serial with rxReady := false } }

/-- The pending mask after a write of `m` (41_aggregator R132): exactly the bits in both are cleared, and under
`AGG_INPUT_MODE = level` the lines still active are set again (41_aggregator R139). -/
def pendingAfterWrite (mode : AggInputMode) (aggIn pending m : LineMask) : LineMask :=
  match mode with
  | .event => pending &&& ~~~(pending &&& m)
  | .level => (pending &&& ~~~(pending &&& m)) ||| aggIn

/-- Write-1-to-clear of the pending mask (41_aggregator R132). -/
def ackPending (m : LineMask) (s : State) : State :=
  { s with agg := { pending := pendingAfterWrite s.cfg.aggInputMode s.env.aggIn s.agg.pending m } }

/-- Line `i` becomes pending (41_aggregator R135). -/
def setPending (i : Line) (s : State) : State := { s with agg := { pending := s.agg.pending ||| lineBit i } }

/-- The level of input line `i`, kept under `AGG_INPUT_MODE = level` only (41_aggregator R135, R136, R139). -/
def driveLine (i : Line) (active : Bool) (s : State) : State :=
  match s.cfg.aggInputMode with
  | .event => s
  | .level =>
    { s with env := { s.env with
        aggIn := if active then s.env.aggIn ||| lineBit i else s.env.aggIn &&& ~~~(lineBit i) } }

end Sys2Proof.Machine
end

