-- ==== Sys2Proof/Machine/Aggregator.lean ====
section
/-! DEFINITION. The interrupt aggregator's operations (41_aggregator): one definition per operation. -/

namespace Sys2Proof.Machine

open Sys2Proof.Config

/-- PENDING.RD (41_aggregator R131): the pending mask; no side effect. -/
def execPendingRd (s : State) : Host.Outcome State Fault Refusal :=
  .next (returnValue (.two (zextMask s.agg.pending)) (startStep s))

/-- PENDING.WR (41_aggregator R132, R137): write-1-to-clear, and the output line asserted whatever was cleared. -/
def execPendingWr (v : HalfWord) (s : State) : Host.Outcome State Fault Refusal :=
  .next (emit (.assertLine .aggOut) (ackPending (ackOperand v) (startStep s)))

/-- AGG.UNDEF.RD (41_aggregator R133): returns 0, logged. -/
def execAggUndefRd (s : State) : Host.Outcome State Fault Refusal :=
  .next (undefinedAccess .agg 1#4 .two none (startStep s))

/-- AGG.UNDEF.WR (41_aggregator R134): logged; nothing cleared, nothing asserted. -/
def execAggUndefWr (v : HalfWord) (s : State) : Host.Outcome State Fault Refusal :=
  .next (undefinedAccess .agg 1#4 .two (some v) (startStep s))

/-- EV.RAISE (41_aggregator R135, R137): line `i` becomes pending and the output line is asserted. -/
def execEvRaise (i : Line) (s : State) : Host.Outcome State Fault Refusal :=
  .next (emit (.assertLine .aggOut) (driveLine i true (setPending i (startStep s))))

/-- EV.LOWER (41_aggregator R136): the pending bit stays; the output line is asserted only under `AGG_ASSERT_ON_LOWER`. -/
def execEvLower (i : Line) (s : State) : Host.Outcome State Fault Refusal :=
  .next (if s.cfg.aggAssertOnLower then emit (.assertLine .aggOut) (driveLine i false (startStep s))
    else driveLine i false (startStep s))

end Sys2Proof.Machine
end

