-- ==== Sys2Proof/Machine/Reset.lean ====
section
/-! DEFINITION. The machine reset (70_reset). -/

namespace Sys2Proof.Machine

/-- EV.RESET (70_reset R190, R192): one atomic step; nothing is emitted. -/
def execEvReset (s : State) : Host.Outcome State Fault Refusal :=
  .next (machineReset (startStep s))

end Sys2Proof.Machine
end

