-- ==== Sys2Proof/Machine/Serial.lean ====
section
/-! DEFINITION. The serial device's operations (40_serial): one definition per operation. -/

namespace Sys2Proof.Machine

open Sys2Proof.Config

/-- RXREADY.RD (40_serial R101): whether a byte is pending; no side effect. -/
def execRxreadyRd (s : State) : Host.Outcome State Fault Refusal :=
  .next (returnValue (.two (zextFlag s.serial.rxReady)) (startStep s))

/-- RXREADY.WR (40_serial R102): logged, no effect. -/
def execRxreadyWr (v : HalfWord) (s : State) : Host.Outcome State Fault Refusal :=
  .next (ignoredWrite .serial 0#4 v (startStep s))

/-- TXREADY.RD (40_serial R103): always 1. -/
def execTxreadyRd (s : State) : Host.Outcome State Fault Refusal :=
  .next (returnValue (.two 0x0001#16) (startStep s))

/-- TXREADY.WR (40_serial R104): logged, no effect. -/
def execTxreadyWr (v : HalfWord) (s : State) : Host.Outcome State Fault Refusal :=
  .next (ignoredWrite .serial 2#4 v (startStep s))

/-- RXBYTE.RD (40_serial R105): the stored byte, whether or not one is pending; the buffer is freed and the backend told. -/
def execRxbyteRd (s : State) : Host.Outcome State Fault Refusal :=
  .next (emit .acceptInput (clearRxReady (returnValue (.two (zextByte s.serial.rxByte)) (startStep s))))

/-- RXBYTE.WR (40_serial R106): logged, no effect. -/
def execRxbyteWr (v : HalfWord) (s : State) : Host.Outcome State Fault Refusal :=
  .next (ignoredWrite .serial 4#4 v (startStep s))

/-- TXBYTE.RD (40_serial R107): `lastTxByte`, which no operation but reset writes. -/
def execTxbyteRd (s : State) : Host.Outcome State Fault Refusal :=
  .next (returnValue (.two (zextByte s.serial.lastTxByte)) (startStep s))

/-- TXBYTE.WR (40_serial R108): one byte is sent; `lastTxByte` is not written. -/
def execTxbyteWr (v : HalfWord) (s : State) : Host.Outcome State Fault Refusal :=
  .next (emit (.tx (txOperand v)) (startStep s))

/-- SERIAL.UNDEF.RD (40_serial R109): returns 0, logged. -/
def execSerialUndefRd (off : Offset) (s : State) : Host.Outcome State Fault Refusal :=
  .next (undefinedAccess .serial off .two none (startStep s))

/-- SERIAL.UNDEF.WR (40_serial R110): logged, no effect. -/
def execSerialUndefWr (off : Offset) (v : HalfWord) (s : State) : Host.Outcome State Fault Refusal :=
  .next (undefinedAccess .serial off .two (some v) (startStep s))

/-- EV.RX (40_serial R111, R113): the byte is stored and becomes pending; a delivery while one is pending overwrites it, or
faults under `RX_OVERRUN_POLICY = fault`. -/
def execEvRx (b : Byte) (s : State) : Host.Outcome State Fault Refusal :=
  if s.serial.rxReady = true ∧ s.cfg.rxOverrunPolicy = .fault then .fault (.rxOverrun (eventKey 1#4 b))
  else .next (setReceived b (startStep s))

end Sys2Proof.Machine
end

