-- ==== Sys2Proof/Machine/Timer.lean ====
section
/-! DEFINITION. The timer adapter (42_timer): its one operation. -/

namespace Sys2Proof.Machine

/-- EV.EXPIRE (42_timer R150): the timer's output line is asserted once. -/
def execEvExpire (s : State) : Host.Outcome State Fault Refusal :=
  .next (emit (.assertLine .timerOut) (startStep s))

end Sys2Proof.Machine
end

