-- ==== Sys2Proof/Machine/Width.lean ====
section
/-! DEFINITION. An access of a width other than 2 bytes to a window (20_memory R55). -/

namespace Sys2Proof.Machine

open Sys2Proof.Config

/-- BADWIDTH (20_memory R55): a fault with no effect under `BAD_WIDTH_POLICY = fault`; under `ignore` an undefined-offset
access of the device the address reaches, a write handing it `D[15:0]`, a read returning 0 at its own width, the log record
carrying the access's own offset `addr - base`, also where that is 0 in the aggregator (DEDUCED, unsafe for a claim about
that record or that value, assumption log 10). An address in neither window, which the decoder never hands on, is refused
first (30_encoding R86). -/
def execBadWidth (z : WrongSize) (a : Addr) (wdata : Option Data) (s : State) : Host.Outcome State Fault Refusal :=
  match route s.cfg.overlapWinner a with
  | none => .refused (.notThisBlock (.access (accessKey (.wrong z) wdata.isSome a)))
  | some (dev, off) =>
    match s.cfg.badWidthPolicy with
    | .fault => .fault (.badWidth (accessKey (.wrong z) wdata.isSome a))
    | .ignore => .next (undefinedAccess dev off (.wrong z) (wdata.map deviceData) (startStep s))

end Sys2Proof.Machine
end

