-- ==== Sys2Proof/Machine/Dispatch.lean ====
section
/-! DEFINITION. The dispatch of an operation to its meaning, one arm per constructor of Instr. -/

namespace Sys2Proof.Machine

def exec (i : Instr) (s : State) : Host.Outcome State Fault Refusal :=
  match i with
  | .rxreadyRd => Sys2Proof.Machine.execRxreadyRd s
  | .rxreadyWr v => Sys2Proof.Machine.execRxreadyWr v s
  | .txreadyRd => Sys2Proof.Machine.execTxreadyRd s
  | .txreadyWr v => Sys2Proof.Machine.execTxreadyWr v s
  | .rxbyteRd => Sys2Proof.Machine.execRxbyteRd s
  | .rxbyteWr v => Sys2Proof.Machine.execRxbyteWr v s
  | .txbyteRd => Sys2Proof.Machine.execTxbyteRd s
  | .txbyteWr v => Sys2Proof.Machine.execTxbyteWr v s
  | .serialUndefRd off => Sys2Proof.Machine.execSerialUndefRd off s
  | .serialUndefWr off v => Sys2Proof.Machine.execSerialUndefWr off v s
  | .pendingRd => Sys2Proof.Machine.execPendingRd s
  | .pendingWr v => Sys2Proof.Machine.execPendingWr v s
  | .aggUndefRd => Sys2Proof.Machine.execAggUndefRd s
  | .aggUndefWr v => Sys2Proof.Machine.execAggUndefWr v s
  | .badWidth z a wdata => Sys2Proof.Machine.execBadWidth z a wdata s
  | .evRx b => Sys2Proof.Machine.execEvRx b s
  | .evRaise line => Sys2Proof.Machine.execEvRaise line s
  | .evLower line => Sys2Proof.Machine.execEvLower line s
  | .evExpire => Sys2Proof.Machine.execEvExpire s
  | .evReset => Sys2Proof.Machine.execEvReset s

end Sys2Proof.Machine
end

