-- ==== Sys2Proof/Machine/Step.lean ====
section
/-! DEFINITION. One step: the next operation of the schedule is decoded and run (00_scope R9, 60_exceptions R175). -/

namespace Sys2Proof.Machine

/-- One step. With no operation to take the block waits: the state stays as it is (DESIGN CHOICE, safe: assumption log 2). A
fault or a refusal leaves no next state (60_exceptions R160). -/
def step (s : State) : Host.Outcome State Fault Refusal :=
  match takeInput s with
  | none => .next s
  | some (x, t) =>
    match decode s.cfg.overlapWinner x with
    | .rejected r => .refused (refusalOf x r)
    | .instr i => exec i t

/-- `s` with a table word as the next operation of its schedule (assumption log 3); `s` itself where the number fits no
key. -/
def State.withFetchWord (s : State) (nbits w : Nat) : State :=
  match tableInput nbits w with
  | none => s
  | some x => { s with schedule := x :: s.schedule }

end Sys2Proof.Machine
end

