-- ==== Sys2Proof/Machine/Lines.lean ====
section
/-! DEFINITION. What the block shows its environment without a step: the can-accept predicate (10_state R26), the levels of
its output lines (10_state R27, R31, 42_timer R151) and their routing to the CPU's interrupt inputs (60_exceptions R163).
All are views of stored fields. -/

namespace Sys2Proof.Machine

open Sys2Proof.Config

/-- "Can accept more input" (10_state R26, 40_serial R112): the query changes nothing. -/
def canAccept (s : State) : Bool := !s.serial.rxReady

/-- The level of the serial output line (10_state R27, 40_serial R114). -/
def serialIrqLevel (s : State) : Bool := serialIrqFn s.serial.rxReady s.serial.rxByte s.serial.lastTxByte

/-- The levels CPU interrupt input #1 is driven through within an expiry step (42_timer R151). -/
def timerDrive : TimerLineMode → List Bool
  | .pulse => [true, false]
  | .hold => [true]

/-- The level of CPU interrupt input #1 between steps (42_timer R151): under `pulse` always 0; under `hold` 1 from the first
assertion on, never lowered. -/
def timerIrqLevel (s : State) : Bool :=
  match s.cfg.timerLineMode with
  | .pulse => false
  | .hold => decide (s.env.timerAsserts ≠ 0)

/-- The level the block drives on CPU interrupt input `n`, or none where it drives nothing (60_exceptions R163): the serial
line on #4, the timer line on #1; the aggregator's output is wired to no input (41_aggregator R140). -/
def cpuIrqInput (s : State) (n : Nat) : Option Bool :=
  if n = serialIrqInput then some (serialIrqLevel s)
  else if n = timerIrqInput then some (timerIrqLevel s)
  else none

end Sys2Proof.Machine
end

