-- ==== Sys2Proof/Machine/Platform.lean ====
section
/-! DEFINITION. Platform context: the machine map (20_memory R62, R63) and machine assembly, from a boot configuration to a
launch state (70_reset R191, R193, R194, R195, 60_exceptions R162). No step reads it. -/

namespace Sys2Proof.Machine

open Sys2Proof.Config

/-- The regions of the machine map (20_memory R62). -/
inductive Region where
  | rom
  | ocram
  | extram
  | mmio
deriving DecidableEq, Repr

/-- The region that claims an address, or none where no source claims it (20_memory R62). -/
def regionOf (ramSize : Nat) (a : Addr) : Option Region :=
  if inSerialWindow a || inAggWindow a then some .mmio
  else if inWindow romBase romSize a then some .rom
  else if inWindow ocramBase ocramSize a then some .ocram
  else if inWindow extramBase ramSize a then some .extram
  else none

/-- The largest external RAM that stays below the windows: `SERIAL_BASE - EXTRAM_BASE` bytes (20_memory R63). -/
def maxRamSize : Nat := serialBase.toNat - extramBase.toNat

/-- `roundUpToPage` (70_reset R195). -/
def roundUpToPage (h : Nat) : Nat := (h + pageSize - 1) / pageSize * pageSize

/-- The power-on state of a machine (70_reset R191). -/
def powerOn (c : BootConfig) (p : Params) (pc : Addr) (ramdiskAt : Option Nat) : State :=
  { serial := { rxReady := false, rxByte := 0x00#8, lastTxByte := 0x00#8 }
    agg := { pending := 0b0000#4 }
    env := { tx := [], accepts := 0, log := [], aggIn := 0b0000#4, aggOut := false, aggAsserts := 0, timerAsserts := 0 }
    out := { ret := none, events := [] }
    cpuResetPc := pc
    boot := { config := c, bootstrapPC := pc, ramdiskAt := ramdiskAt }
    cfg := p
    schedule := [] }

/-- The launch state: power-on, then the reset of machine build (70_reset R191). -/
def launchState (c : BootConfig) (p : Params) (pc : Addr) (ramdiskAt : Option Nat) : State :=
  machineReset (powerOn c p pc ramdiskAt)

/-- Steps 4 and 5 of assembly (70_reset R194): the kernel, the ramdisk that stands beside it, the bootstrap program counter.
The bound on the ramdisk compares an address with a size, as the source writes it (70_reset R195). -/
def assembleKernel (c : BootConfig) (p : Params) : Assembly :=
  match c.kernel with
  | none => .launched (launchState c p romBase none)
  | some .missing => .fatal .kernelMissing
  | some .zeroSize => .fatal .kernelZeroSize
  | some .unreadable => .fatal .kernelUnreadable
  | some (.loaded entry h) =>
    match c.initrdSize with
    | none => .launched (launchState c p entry none)
    | some size =>
      if roundUpToPage h + size ≤ c.ramSize then .launched (launchState c p entry (some (roundUpToPage h)))
      else .fatal .ramdiskDoesNotFit

/-- Machine assembly in the order of 70_reset R194: the CPU, the RAM (refused where it would reach the windows, 20_memory
R63), then the kernel. -/
def assemble (c : BootConfig) (p : Params) : Assembly :=
  if c.cpuResolves = false then .fatal .unresolvableCpuVariant
  else if maxRamSize < c.ramSize then .refused (.ramOverlapsMmio c.ramSize)
  else assembleKernel c p

end Sys2Proof.Machine
end

