-- ==== Sys2Proof/WellFormed.lean ====
section
/-! DEFINITION. Which operations the spec's encoding can spell under a setting of `OVERLAP_WINNER` (20_memory R51, 30_encoding
R86), and which inputs carry no stray data bits (30_encoding R80). -/

namespace Sys2Proof

open Sys2Proof.Config Sys2Proof.Machine

/-- Whether `off` is an undefined serial offset under `w` (40_serial R109): none of the registers' offsets 0, 2, 4, 6, and
8 or 9 only where the serial device wins the overlap. -/
def undefinedSerialOffset (w : OverlapWinner) (off : Offset) : Bool :=
  decide (off ≠ 0#4 ∧ off ≠ 2#4 ∧ off ≠ 4#4 ∧ off ≠ 6#4) &&
    (decide (off ≠ 8#4 ∧ off ≠ 9#4) || decide (w = .serial))

/-- The checks on an operation: an undefined offset is one; the aggregator's register is reached only where the aggregator
wins the overlap; an access of a wrong width starts in a window and its data fits its width. -/
def Instr.wf (w : OverlapWinner) : Instr → Bool
  | .serialUndefRd off => undefinedSerialOffset w off
  | .serialUndefWr off _ => undefinedSerialOffset w off
  | .pendingRd => decide (w = .aggregator)
  | .pendingWr _ => decide (w = .aggregator)
  | .aggUndefRd => decide (w = .aggregator)
  | .aggUndefWr _ => decide (w = .aggregator)
  | .badWidth _ a none => (route w a).isSome
  | .badWidth z a (some d) => (route w a).isSome && decide (wrongSizeData z d = d)
  | .rxreadyRd => true
  | .rxreadyWr _ => true
  | .txreadyRd => true
  | .txreadyWr _ => true
  | .rxbyteRd => true
  | .rxbyteWr _ => true
  | .txbyteRd => true
  | .txbyteWr _ => true
  | .evRx _ => true
  | .evRaise _ => true
  | .evLower _ => true
  | .evExpire => true
  | .evReset => true

/-- Whether an access's data operand has the width of its key: a read carries none, a write carries `8 * 2^sz` bits
(30_encoding R80). -/
def Input.wf : Input → Bool
  | .access k d =>
    if k.getLsbD 32 then decide (d.toNat < 2 ^ (8 * 2 ^ (k.extractLsb' 34 2).toNat)) else decide (d = 0#64)
  | .event _ => true
  | .fetch _ => true

end Sys2Proof
end

