-- ==== Sys2Proof/Safety.lean ====
section
/-! DEFINITION. The terms claims are stated in: a sequence of operations run one after the other, the invariant every step
keeps, the duties of the backend and of software (60_exceptions R178, 70_reset R200, R201), and what clears a pending
bit (10_state R28). -/

namespace Sys2Proof.Machine

open Sys2Proof.Config

/-- The next state of an outcome, where there is one. -/
def nextState? : Host.Outcome State Fault Refusal → Option State
  | .next t => some t
  | .fault _ => none
  | .refused _ => none

/-- The fault of an outcome, where there is one. -/
def fault? : Host.Outcome State Fault Refusal → Option Fault
  | .next _ => none
  | .fault f => some f
  | .refused _ => none

/-- The refusal of an outcome, where there is one. -/
def refusal? : Host.Outcome State Fault Refusal → Option Refusal
  | .next _ => none
  | .fault _ => none
  | .refused r => some r

/-- A sequence of operations, run one after the other up to the first that faults or is refused. -/
def runInstrs : List Instr → State → Host.Outcome State Fault Refusal
  | [], s => .next s
  | i :: is, s =>
    match exec i s with
    | .next t => runInstrs is t
    | .fault f => .fault f
    | .refused r => .refused r

/-- The invariant of the block: `lastTxByte` reads 0 (40_serial R107); the aggregator's output is high exactly from its
first assertion on (41_aggregator R137); no input line level is kept under the event mode (10_state R30); the value last
forced into the CPU's pc is the bootstrap program counter (70_reset R192); a log record carries data exactly when it is
of a write (40_serial R100). -/
structure BlockInv (s : State) : Prop where
  lastTxByte_zero : s.serial.lastTxByte = 0x00#8
  aggOut_iff      : s.env.aggOut = true ↔ s.env.aggAsserts ≠ 0
  aggIn_event     : s.cfg.aggInputMode = .event → s.env.aggIn = 0b0000#4
  resetPc         : s.cpuResetPc = s.boot.bootstrapPC
  log_data        : ∀ r ∈ s.env.log, (r.v.isSome = true ↔ r.dir = .write)

/-- The byte an operation delivers, if it is a receive. -/
def receivedByte : Instr → Option Byte
  | .rxreadyRd => none
  | .rxreadyWr _ => none
  | .txreadyRd => none
  | .txreadyWr _ => none
  | .rxbyteRd => none
  | .rxbyteWr _ => none
  | .txbyteRd => none
  | .txbyteWr _ => none
  | .serialUndefRd _ => none
  | .serialUndefWr _ _ => none
  | .pendingRd => none
  | .pendingWr _ => none
  | .aggUndefRd => none
  | .aggUndefWr _ => none
  | .badWidth _ _ _ => none
  | .evRx b => some b
  | .evRaise _ => none
  | .evLower _ => none
  | .evExpire => none
  | .evReset => none

/-- The bytes the backend delivers in a sequence of operations. -/
def delivered (is : List Instr) : List Byte := is.filterMap receivedByte

/-- The unread byte, if one is pending (10_state R24). -/
def unread (s : State) : List Byte := bif s.serial.rxReady then [s.serial.rxByte] else []

/-- The bytes software takes in a run: the low byte of the value of each RXBYTE read made while a byte is pending. A read of
an empty buffer returns a byte already taken (40_serial R105). -/
def bytesTaken : List Instr → State → List Byte
  | [], _ => []
  | i :: is, s =>
    match exec i s with
    | .next t =>
      (if i = .rxbyteRd ∧ s.serial.rxReady = true then t.out.ret.toList.map lowByte else []) ++ bytesTaken is t
    | .fault _ => []
    | .refused _ => []

/-- The duty of flow control for one operation: the backend delivers only while can-accept is true (60_exceptions R178), and
no reset happens (a reset discards the pending byte, 70_reset R190). -/
def keepsFlowControl (s : State) : Instr → Bool
  | .rxreadyRd => true
  | .rxreadyWr _ => true
  | .txreadyRd => true
  | .txreadyWr _ => true
  | .rxbyteRd => true
  | .rxbyteWr _ => true
  | .txbyteRd => true
  | .txbyteWr _ => true
  | .serialUndefRd _ => true
  | .serialUndefWr _ _ => true
  | .pendingRd => true
  | .pendingWr _ => true
  | .aggUndefRd => true
  | .aggUndefWr _ => true
  | .badWidth _ _ _ => true
  | .evRx _ => canAccept s
  | .evRaise _ => true
  | .evLower _ => true
  | .evExpire => true
  | .evReset => false

/-- Every operation of a run completes and keeps the duty of flow control. -/
def flowControlled : List Instr → State → Prop
  | [], _ => True
  | i :: is, s =>
    keepsFlowControl s i = true ∧
    (match exec i s with
      | .next t => flowControlled is t
      | .fault _ => False
      | .refused _ => False)

/-- Whether an operation clears the pending bit of line `l`: a PENDING write with a 1 in that bit (41_aggregator R132), or a
reset (70_reset R190). -/
def clearsLine (l : Line) : Instr → Bool
  | .rxreadyRd => false
  | .rxreadyWr _ => false
  | .txreadyRd => false
  | .txreadyWr _ => false
  | .rxbyteRd => false
  | .rxbyteWr _ => false
  | .txbyteRd => false
  | .txbyteWr _ => false
  | .serialUndefRd _ => false
  | .serialUndefWr _ _ => false
  | .pendingRd => false
  | .pendingWr v => v.getLsbD l.toNat
  | .aggUndefRd => false
  | .aggUndefWr _ => false
  | .badWidth _ _ _ => false
  | .evRx _ => false
  | .evRaise _ => false
  | .evLower _ => false
  | .evExpire => false
  | .evReset => true

/-- The logged-and-ignored accesses (60_exceptions R161) with the record each leaves: an access to an undefined offset, and
a write to RXREADY, TXREADY or RXBYTE. -/
def ignoredRecord : Instr → Option LogRecord
  | .rxreadyRd => none
  | .rxreadyWr v => some { dev := .serial, off := 0#4, dir := .write, v := some v }
  | .txreadyRd => none
  | .txreadyWr v => some { dev := .serial, off := 2#4, dir := .write, v := some v }
  | .rxbyteRd => none
  | .rxbyteWr v => some { dev := .serial, off := 4#4, dir := .write, v := some v }
  | .txbyteRd => none
  | .txbyteWr _ => none
  | .serialUndefRd off => some { dev := .serial, off := off, dir := .read, v := none }
  | .serialUndefWr off v => some { dev := .serial, off := off, dir := .write, v := some v }
  | .pendingRd => none
  | .pendingWr _ => none
  | .aggUndefRd => some { dev := .agg, off := 1#4, dir := .read, v := none }
  | .aggUndefWr v => some { dev := .agg, off := 1#4, dir := .write, v := some v }
  | .badWidth _ _ _ => none
  | .evRx _ => none
  | .evRaise _ => none
  | .evLower _ => none
  | .evExpire => none
  | .evReset => none

/-- Whether an operation is the aggregator's or its input lines'. -/
def isAggOp : Instr → Bool
  | .rxreadyRd => false
  | .rxreadyWr _ => false
  | .txreadyRd => false
  | .txreadyWr _ => false
  | .rxbyteRd => false
  | .rxbyteWr _ => false
  | .txbyteRd => false
  | .txbyteWr _ => false
  | .serialUndefRd _ => false
  | .serialUndefWr _ _ => false
  | .pendingRd => true
  | .pendingWr _ => true
  | .aggUndefRd => true
  | .aggUndefWr _ => true
  | .badWidth _ _ _ => false
  | .evRx _ => false
  | .evRaise _ => true
  | .evLower _ => true
  | .evExpire => false
  | .evReset => false

/-- Whether an operation asserts the aggregator's output line (41_aggregator R136, R137). -/
def assertsAggOut (s : State) : Instr → Bool
  | .rxreadyRd => false
  | .rxreadyWr _ => false
  | .txreadyRd => false
  | .txreadyWr _ => false
  | .rxbyteRd => false
  | .rxbyteWr _ => false
  | .txbyteRd => false
  | .txbyteWr _ => false
  | .serialUndefRd _ => false
  | .serialUndefWr _ _ => false
  | .pendingRd => false
  | .pendingWr _ => true
  | .aggUndefRd => false
  | .aggUndefWr _ => false
  | .badWidth _ _ _ => false
  | .evRx _ => false
  | .evRaise _ => true
  | .evLower _ => s.cfg.aggAssertOnLower
  | .evExpire => false
  | .evReset => false

end Sys2Proof.Machine
end

