-- ==== Sys2Proof/Certificates/Slice0/Obligations.lean ====
section
/-! DEFINITION. The statements for the provers. Each docstring names the rule or the section of spec/ it formalises; a
statement that rests on a decision of spec/92_eei_decisions.md, or on an entry of the assumption log, says so. A clause
`exec i s = .next { s with … }` gives the operation's result, its completion and its frame at once: every field of the
state that it does not name (every other register and flag, the environment record, the settings, the schedule) is
unchanged. -/

open Sys2Proof Sys2Proof.Config Sys2Proof.Machine

/-! ### Encoding and dispatch -/

/-- 30_encoding sections 1 to 4: under each setting of `OVERLAP_WINNER`, decoding the encoding of a well-formed operation
gives it back, every operand kept. -/
def Obligations.DecodeOfEncodeIsTheOperation : Prop :=
  ∀ (w : OverlapWinner) (i : Instr), i.wf w = true → decode w (encode i) = .instr i

/-- 30_encoding sections 1 to 4: an input with no stray data bits that decodes to an operation is the encoding of that
operation, which is well-formed: no two inputs spell one operation. -/
def Obligations.EncodeOfDecodeIsTheInput : Prop :=
  ∀ (w : OverlapWinner) (x : Input) (i : Instr), x.wf = true → decode w x = .instr i → encode i = x ∧ i.wf w = true

/-- 30_encoding section 4 and opcode_table.json, format A: an access key decodes to an operation of a mnemonic exactly
when it matches a row of that mnemonic which stands under the setting of `OVERLAP_WINNER`. -/
def Obligations.AccessDecoderAgreesWithOpcodeTable : Prop :=
  ∀ (w : OverlapWinner) (k : AccessKey) (d : Data) (o : Opcode),
    (∃ i, decode w (.access k d) = .instr i ∧ i.opcode = o) ↔
      (∃ r ∈ accessRows, rowMatches w k r = true ∧ r.opcode = o)

/-- 30_encoding section 3 and opcode_table.json, format E: an event key decodes to an operation of a mnemonic exactly when
it matches a row of that mnemonic. -/
def Obligations.EventDecoderAgreesWithOpcodeTable : Prop :=
  ∀ (w : OverlapWinner) (k : EventKey) (o : Opcode),
    (∃ i, decode w (.event k) = .instr i ∧ i.opcode = o) ↔
      (∃ r ∈ eventRows, rowMatches w k r = true ∧ r.opcode = o)

/-- 30_encoding section 4: "the rows of opcode_table.json are disjoint for each setting of OVERLAP_WINNER": no access key
matches two rows, and no event key does. -/
def Obligations.OpcodeTableRowsAreDisjoint : Prop :=
  (∀ (w : OverlapWinner) (k : AccessKey) (r r' : Row 36), r ∈ accessRows → r' ∈ accessRows →
      rowMatches w k r = true → rowMatches w k r' = true → r = r') ∧
  (∀ (w : OverlapWinner) (k : EventKey) (r r' : Row 16), r ∈ eventRows → r' ∈ eventRows →
      rowMatches w k r = true → rowMatches w k r' = true → r = r')

/-- 30_encoding section 4 and 60_exceptions section 3: the decode order of a bus access, with the literal addresses:
reserved bit, window, width, then the register of the device that answers. Rests on decisions D3, D5 and D21. -/
def Obligations.AccessDecodeFollowsTheSpecOrder : Prop :=
  ∀ (w : OverlapWinner) (k : AccessKey) (d : Data),
    decode w (.access k d) =
      if k.getLsbD 33 = true then .rejected .reservedKeyBit
      else if (k.extractLsb' 0 32).toNat < 0xF0000008 ∨ 0xF0000017 < (k.extractLsb' 0 32).toNat then
        .rejected .notThisBlock
      else if k.extractLsb' 34 2 ≠ 0b01#2 then
        .instr (.badWidth
          (if k.extractLsb' 34 2 = 0b00#2 then .one else if k.extractLsb' 34 2 = 0b10#2 then .four else .eight)
          (k.extractLsb' 0 32)
          (if k.getLsbD 32 = true then
            some (if k.extractLsb' 34 2 = 0b00#2 then d &&& 0xFF#64
              else if k.extractLsb' 34 2 = 0b10#2 then d &&& 0xFFFFFFFF#64 else d)
          else none))
      else if w = .aggregator ∧ k.extractLsb' 0 32 = 0xF0000010#32 then
        .instr (if k.getLsbD 32 = true then .pendingWr (d.extractLsb' 0 16) else .pendingRd)
      else if w = .aggregator ∧ k.extractLsb' 0 32 = 0xF0000011#32 then
        .instr (if k.getLsbD 32 = true then .aggUndefWr (d.extractLsb' 0 16) else .aggUndefRd)
      else if k.extractLsb' 0 32 = 0xF0000008#32 then
        .instr (if k.getLsbD 32 = true then .rxreadyWr (d.extractLsb' 0 16) else .rxreadyRd)
      else if k.extractLsb' 0 32 = 0xF000000A#32 then
        .instr (if k.getLsbD 32 = true then .txreadyWr (d.extractLsb' 0 16) else .txreadyRd)
      else if k.extractLsb' 0 32 = 0xF000000C#32 then
        .instr (if k.getLsbD 32 = true then .rxbyteWr (d.extractLsb' 0 16) else .rxbyteRd)
      else if k.extractLsb' 0 32 = 0xF000000E#32 then
        .instr (if k.getLsbD 32 = true then .txbyteWr (d.extractLsb' 0 16) else .txbyteRd)
      else
        .instr (if k.getLsbD 32 = true then
            .serialUndefWr (BitVec.ofNat 4 ((k.extractLsb' 0 32).toNat - 0xF0000008)) (d.extractLsb' 0 16)
          else .serialUndefRd (BitVec.ofNat 4 ((k.extractLsb' 0 32).toNat - 0xF0000008)))

/-- 20_memory section 1 (decision D5): under `OVERLAP_WINNER = aggregator` a 2-byte access at 0xF0000010 or 0xF0000011
reaches the aggregator; under `serial` it is an access to serial offset 8 or 9, and no bus access reaches the aggregator's
register. -/
def Obligations.OverlapWinnerDecidesWhoAnswers : Prop :=
  (∀ d, decode .aggregator (.access 0x4F0000010#36 d) = .instr .pendingRd) ∧
  (∀ d, decode .aggregator (.access 0x5F0000010#36 d) = .instr (.pendingWr (d.extractLsb' 0 16))) ∧
  (∀ d, decode .aggregator (.access 0x4F0000011#36 d) = .instr .aggUndefRd) ∧
  (∀ d, decode .aggregator (.access 0x5F0000011#36 d) = .instr (.aggUndefWr (d.extractLsb' 0 16))) ∧
  (∀ d, decode .serial (.access 0x4F0000010#36 d) = .instr (.serialUndefRd 8#4)) ∧
  (∀ d, decode .serial (.access 0x5F0000010#36 d) = .instr (.serialUndefWr 8#4 (d.extractLsb' 0 16))) ∧
  (∀ d, decode .serial (.access 0x4F0000011#36 d) = .instr (.serialUndefRd 9#4)) ∧
  (∀ d, decode .serial (.access 0x5F0000011#36 d) = .instr (.serialUndefWr 9#4 (d.extractLsb' 0 16))) ∧
  (∀ (x : Input) (i : Instr), decode .serial x = .instr i →
    i ≠ .pendingRd ∧ (∀ v, i ≠ .pendingWr v) ∧ i ≠ .aggUndefRd ∧ (∀ v, i ≠ .aggUndefWr v))

/-- 30_encoding R81 and section 3: a few words written out from the spec's tables. -/
def Obligations.KeysOfTheSpecDecode : Prop :=
  decode .aggregator (.access 0x4F0000008#36 0#64) = .instr .rxreadyRd ∧
  decode .aggregator (.access 0x5F000000E#36 0x1241#64) = .instr (.txbyteWr 0x1241#16) ∧
  decode .aggregator (.access 0x4F0000010#36 0#64) = .instr .pendingRd ∧
  decode .aggregator (.access 0x8F000000C#36 0#64) = .instr (.badWidth .four 0xF000000C#32 none) ∧
  decode .aggregator (.event 0x1058#16) = .instr (.evRx 0x58#8) ∧
  decode .aggregator (.event 0x3003#16) = .instr (.evLower 3#2) ∧
  decode .aggregator (.event 0x5000#16) = .instr .evReset

/-- 00_scope section 4, 60_exceptions R175: a step takes the next operation of the schedule; where it decodes to an
operation, the step is that operation's meaning at the state without it; where the decoder rejects it, the step is
refused, naming its key (of a fetch its address: the model's choice, assumption log 24). With no operation to take the
state stays as it is (the model's choice, assumption log 2). -/
def Obligations.StepRunsTheDecodedOperation : Prop :=
  (∀ (s : State) (x : Input) (rest : List Input) (i : Instr), s.schedule = x :: rest →
    decode s.cfg.overlapWinner x = .instr i → step s = exec i { s with schedule := rest }) ∧
  (∀ (s : State) (x : Input) (rest : List Input) (r : Reject), s.schedule = x :: rest →
    decode s.cfg.overlapWinner x = .rejected r → step s = .refused (refusalOf x r)) ∧
  (∀ s : State, s.schedule = [] → step s = .next s)

/-- 20_memory section 1 (decision D6): a bus access whose start address is in neither window, its reserved bit clear, is
refused `NotThisBlock` with its key, whatever its width, direction and data. -/
def Obligations.AccessOutsideTheWindowsIsRefused : Prop :=
  ∀ (s : State) (k : AccessKey) (d : Data) (rest : List Input),
    s.schedule = .access k d :: rest → k.getLsbD 33 = false →
    ((k.extractLsb' 0 32).toNat < 0xF0000008 ∨ 0xF0000018 ≤ (k.extractLsb' 0 32).toNat) →
    step s = .refused (.notThisBlock (.access k))

/-- 30_encoding sections 1 and 3, 41_aggregator section 4 (decisions D21, D26): a reserved key bit, a nonzero payload of an
expiry or a reset, a reserved event kind and a line number above 3 are refused by name. A key with a reserved bit set
is refused for the bit whatever its kind and its payload (assumption log 11). -/
def Obligations.KeysThatSpellNothingAreRefused : Prop :=
  (∀ (s : State) (k : AccessKey) (d : Data) (rest : List Input),
    s.schedule = .access k d :: rest → k.getLsbD 33 = true → step s = .refused (.reservedKeyBit (.access k))) ∧
  (∀ (s : State) (k : EventKey) (rest : List Input),
    s.schedule = .event k :: rest → k.extractLsb' 8 4 ≠ 0#4 → step s = .refused (.reservedKeyBit (.event k))) ∧
  (∀ (s : State) (k : EventKey) (rest : List Input),
    s.schedule = .event k :: rest → k.extractLsb' 8 4 = 0#4 →
    (k.extractLsb' 12 4 = 4#4 ∨ k.extractLsb' 12 4 = 5#4) → k.extractLsb' 0 8 ≠ 0#8 →
    step s = .refused (.reservedKeyBit (.event k))) ∧
  (∀ (s : State) (k : EventKey) (rest : List Input),
    s.schedule = .event k :: rest → k.extractLsb' 8 4 = 0#4 →
    (k.extractLsb' 12 4 = 0#4 ∨ 6 ≤ (k.extractLsb' 12 4).toNat) → step s = .refused (.reservedEvent (.event k))) ∧
  (∀ (s : State) (k : EventKey) (rest : List Input),
    s.schedule = .event k :: rest → k.extractLsb' 8 4 = 0#4 →
    (k.extractLsb' 12 4 = 2#4 ∨ k.extractLsb' 12 4 = 3#4) → 4 ≤ (k.extractLsb' 0 8).toNat →
    step s = .refused (.noSuchLine (.event k)))

/-- 20_memory section 5 (decision D17): an instruction fetch from a window is refused `FetchFromMmio`. That the refusal
records the fetch address is the model's choice (assumption log 24). -/
def Obligations.FetchFromAWindowIsRefused : Prop :=
  ∀ (s : State) (a : Addr) (rest : List Input), s.schedule = .fetch a :: rest →
    0xF0000008 ≤ a.toNat → a.toNat < 0xF0000018 → step s = .refused (.fetchFromMmio (.fetch a))

/-! ### The serial device -/

/-- 40_serial R101. -/
def Obligations.RxreadyReadReturnsTheFlag : Prop :=
  (∀ w d, decode w (.access 0x4F0000008#36 d) = .instr .rxreadyRd) ∧
  ∀ s : State, exec .rxreadyRd s =
    .next { s with out := { ret := some (.two (if s.serial.rxReady then 0x0001#16 else 0x0000#16)), events := [] } }

/-- 40_serial R102. -/
def Obligations.RxreadyWriteIsOnlyLogged : Prop :=
  (∀ w d, decode w (.access 0x5F0000008#36 d) = .instr (.rxreadyWr (d.extractLsb' 0 16))) ∧
  ∀ (v : HalfWord) (s : State), exec (.rxreadyWr v) s =
    .next { s with
      env := { s.env with log := s.env.log ++ [{ dev := .serial, off := 0#4, dir := .write, v := some v }] }
      out := { ret := none, events := [.log { dev := .serial, off := 0#4, dir := .write, v := some v }] } }

/-- 40_serial R103. -/
def Obligations.TxreadyAlwaysReadsOne : Prop :=
  (∀ w d, decode w (.access 0x4F000000A#36 d) = .instr .txreadyRd) ∧
  ∀ s : State, exec .txreadyRd s = .next { s with out := { ret := some (.two 0x0001#16), events := [] } }

/-- 40_serial R104: the write is logged and changes nothing else, and a TXREADY read in the state it leaves returns
0x0001. -/
def Obligations.TxreadyWriteIsOnlyLogged : Prop :=
  (∀ w d, decode w (.access 0x5F000000A#36 d) = .instr (.txreadyWr (d.extractLsb' 0 16))) ∧
  ∀ (v : HalfWord) (s : State), ∃ t, exec (.txreadyWr v) s = .next t ∧
    t = { s with
      env := { s.env with log := s.env.log ++ [{ dev := .serial, off := 2#4, dir := .write, v := some v }] }
      out := { ret := none, events := [.log { dev := .serial, off := 2#4, dir := .write, v := some v }] } } ∧
    ∃ u, exec .txreadyRd t = .next u ∧ u.out.ret = some (.two 0x0001#16)

/-- 40_serial section 2, RXBYTE.RD (its case of an empty buffer is decision D8): the read returns the stored byte
zero-extended, clears `rxReady`, keeps `rxByte`, and notifies the backend, whether or not a byte is pending. -/
def Obligations.RxbyteReadTakesTheByte : Prop :=
  (∀ w d, decode w (.access 0x4F000000C#36 d) = .instr .rxbyteRd) ∧
  ∀ s : State, exec .rxbyteRd s =
    .next { s with
      serial := { rxReady := false, rxByte := s.serial.rxByte, lastTxByte := s.serial.lastTxByte }
      env := { s.env with accepts := s.env.accepts + 1 }
      out := { ret := some (.two (0#8 ++ s.serial.rxByte)), events := [.acceptInput] } }

/-- 40_serial R106. -/
def Obligations.RxbyteWriteIsOnlyLogged : Prop :=
  (∀ w d, decode w (.access 0x5F000000C#36 d) = .instr (.rxbyteWr (d.extractLsb' 0 16))) ∧
  ∀ (v : HalfWord) (s : State), exec (.rxbyteWr v) s =
    .next { s with
      env := { s.env with log := s.env.log ++ [{ dev := .serial, off := 4#4, dir := .write, v := some v }] }
      out := { ret := none, events := [.log { dev := .serial, off := 4#4, dir := .write, v := some v }] } }

/-- 40_serial R107: a TXBYTE read returns `lastTxByte`; no operation but reset writes it, and reset writes 0, so a step from
a state in which TXBYTE reads 0 leaves TXBYTE reading 0. -/
def Obligations.TxbyteReadsZeroWhateverWasSent : Prop :=
  (∀ w d, decode w (.access 0x4F000000E#36 d) = .instr .txbyteRd) ∧
  (∀ s : State, exec .txbyteRd s =
    .next { s with out := { ret := some (.two (0#8 ++ s.serial.lastTxByte)), events := [] } }) ∧
  (∀ (i : Instr) (s t : State), exec i s = .next t →
    t.serial.lastTxByte = if i = .evReset then 0x00#8 else s.serial.lastTxByte) ∧
  (∀ s t : State, s.serial.lastTxByte = 0x00#8 → step s = .next t →
    t.serial.lastTxByte = 0x00#8 ∧
    exec .txbyteRd t = .next { t with out := { ret := some (.two 0x0000#16), events := [] } }) ∧
  State.reset.serial.lastTxByte = 0x00#8

/-- 40_serial section 2, TXBYTE.WR (that the backend takes every byte is decision D23): the low byte is appended to the
transmitted stream; `lastTxByte` and everything else but the step's result stay. -/
def Obligations.TxbyteWriteSendsOneByte : Prop :=
  (∀ w d, decode w (.access 0x5F000000E#36 d) = .instr (.txbyteWr (d.extractLsb' 0 16))) ∧
  ∀ (v : HalfWord) (s : State), exec (.txbyteWr v) s =
    .next { s with
      env := { s.env with tx := s.env.tx ++ [v.extractLsb' 0 8] }
      out := { ret := none, events := [.tx (v.extractLsb' 0 8)] } }

/-- 40_serial section 3, SERIAL.UNDEF.RD (an odd offset is undefined by decision D4): every undefined offset, as an address,
decodes to the undefined read; it returns 0 and is logged, nothing else changes. -/
def Obligations.UndefinedSerialReadReturnsZero : Prop :=
  (∀ (w : OverlapWinner) (off : Offset) (d : Data),
    off ≠ 0#4 → off ≠ 2#4 → off ≠ 4#4 → off ≠ 6#4 → (off = 8#4 ∨ off = 9#4 → w = .serial) →
    decode w (.access (0b0100#4 ++ (0xF0000008#32 + (0#28 ++ off))) d) = .instr (.serialUndefRd off)) ∧
  ∀ (off : Offset) (s : State), exec (.serialUndefRd off) s =
    .next { s with
      env := { s.env with log := s.env.log ++ [{ dev := .serial, off := off, dir := .read, v := none }] }
      out := { ret := some (.two 0x0000#16), events := [.log { dev := .serial, off := off, dir := .read, v := none }] } }

/-- 40_serial section 3, SERIAL.UNDEF.WR (an odd offset is undefined by decision D4): logged with its data, nothing else
changes. -/
def Obligations.UndefinedSerialWriteIsOnlyLogged : Prop :=
  (∀ (w : OverlapWinner) (off : Offset) (d : Data),
    off ≠ 0#4 → off ≠ 2#4 → off ≠ 4#4 → off ≠ 6#4 → (off = 8#4 ∨ off = 9#4 → w = .serial) →
    decode w (.access (0b0101#4 ++ (0xF0000008#32 + (0#28 ++ off))) d) =
      .instr (.serialUndefWr off (d.extractLsb' 0 16))) ∧
  ∀ (off : Offset) (v : HalfWord) (s : State), exec (.serialUndefWr off v) s =
    .next { s with
      env := { s.env with log := s.env.log ++ [{ dev := .serial, off := off, dir := .write, v := some v }] }
      out := { ret := none, events := [.log { dev := .serial, off := off, dir := .write, v := some v }] } }

/-- 40_serial R111: a delivered byte is stored and becomes pending; nothing is logged or notified. Under
`RX_OVERRUN_POLICY = fault` a delivery while a byte is pending faults with its event key. -/
def Obligations.ReceiveStoresTheByte : Prop :=
  (∀ (w : OverlapWinner) (b : Byte), decode w (.event (0x10#8 ++ b)) = .instr (.evRx b)) ∧
  (∀ (b : Byte) (s : State), ¬ (s.serial.rxReady = true ∧ s.cfg.rxOverrunPolicy = .fault) →
    exec (.evRx b) s =
      .next { s with
        serial := { rxReady := true, rxByte := b, lastTxByte := s.serial.lastTxByte }
        out := { ret := none, events := [] } }) ∧
  (∀ (b : Byte) (s : State), s.serial.rxReady = true → s.cfg.rxOverrunPolicy = .fault →
    exec (.evRx b) s = .fault (.rxOverrun (0x10#8 ++ b)))

/-- 40_serial R112: the can-accept answer is `not rxReady`, in every state; it is false exactly when an RXREADY read returns
0x0001. It is a function of the state, so the query changes and emits nothing. -/
def Obligations.CanAcceptExactlyWhenRxreadyReadsZero : Prop :=
  ∀ s : State, canAccept s = !s.serial.rxReady ∧
    (canAccept s = false ↔ ∃ t, exec .rxreadyRd s = .next t ∧ t.out.ret = some (.two 0x0001#16)) ∧
    (canAccept s = true ↔ ∃ t, exec .rxreadyRd s = .next t ∧ t.out.ret = some (.two 0x0000#16))

/-- 10_state R35: `rxReady` becomes set only by a receive, and clear only by an RXBYTE read or a reset. Under the spec's
setting `AGG_INPUT_MODE = event`, a pending bit becomes set only by a raise of its line, and clear only by a PENDING write
with a 1 in that bit or a reset. -/
def Obligations.StatusFlagsChangeOnlyByTheirRules : Prop :=
  (∀ (i : Instr) (s t : State), exec i s = .next t → s.serial.rxReady = false → t.serial.rxReady = true →
    ∃ b, i = .evRx b) ∧
  (∀ (i : Instr) (s t : State), exec i s = .next t → s.serial.rxReady = true → t.serial.rxReady = false →
    i = .rxbyteRd ∨ i = .evReset) ∧
  (∀ (i : Instr) (s t : State) (l : Line), exec i s = .next t → s.cfg.aggInputMode = .event →
    s.agg.pending.getLsbD l.toNat = false → t.agg.pending.getLsbD l.toNat = true → i = .evRaise l) ∧
  (∀ (i : Instr) (s t : State) (l : Line), exec i s = .next t → s.cfg.aggInputMode = .event →
    s.agg.pending.getLsbD l.toNat = true → t.agg.pending.getLsbD l.toNat = false →
    (∃ v, i = .pendingWr v ∧ v.getLsbD l.toNat = true) ∨ i = .evReset)

/-- 70_reset section 3, receive flow control: over any run in which the backend honours can-accept and no reset happens, the
bytes software takes, followed by the byte still pending, are the byte pending at the start followed by the bytes
delivered: none is lost, repeated or reordered. An RXBYTE read frees the buffer, nothing else but a reset does, and under
`RX_OVERRUN_POLICY = overwrite` a delivery that ignores can-accept overwrites the pending byte. -/
def Obligations.HonouredFlowControlLosesNoByte : Prop :=
  (∀ (is : List Instr) (s t : State), flowControlled is s → runInstrs is s = .next t →
    unread s ++ delivered is = bytesTaken is s ++ unread t) ∧
  (∀ s : State, ∃ t, exec .rxbyteRd s = .next t ∧ canAccept t = true) ∧
  (∀ (i : Instr) (s t : State), exec i s = .next t → canAccept s = false → canAccept t = true →
    i = .rxbyteRd ∨ i = .evReset) ∧
  (∀ (b : Byte) (s : State), canAccept s = false → s.cfg.rxOverrunPolicy = .overwrite →
    ∃ t, exec (.evRx b) s = .next t ∧ unread t = [b])

/-! ### The interrupt aggregator -/

/-- 41_aggregator R131. -/
def Obligations.PendingReadReturnsTheMask : Prop :=
  (∀ d, decode .aggregator (.access 0x4F0000010#36 d) = .instr .pendingRd) ∧
  ∀ s : State, exec .pendingRd s =
    .next { s with out := { ret := some (.two (0#12 ++ s.agg.pending)), events := [] } }

/-- 41_aggregator section 2, PENDING.WR (that the bits cleared are `pending & ~v[3:0]` is the spec's own inference from
00_scope section 4; that the output goes high and stays is decision D12, assumption log 15): exactly the bits in both
`pending` and the written value are cleared; under `AGG_INPUT_MODE = level` the lines still active are set again; the
output line is asserted whatever was cleared. -/
def Obligations.PendingWriteClearsTheIntersection : Prop :=
  (∀ d, decode .aggregator (.access 0x5F0000010#36 d) = .instr (.pendingWr (d.extractLsb' 0 16))) ∧
  (∀ (v : HalfWord) (s : State), exec (.pendingWr v) s =
    .next { s with
      agg := { pending := (s.agg.pending &&& ~~~(s.agg.pending &&& v.extractLsb' 0 4)) |||
        (if s.cfg.aggInputMode = .level then s.env.aggIn else 0#4) }
      env := { s.env with aggOut := true, aggAsserts := s.env.aggAsserts + 1 }
      out := { ret := none, events := [.assertLine .aggOut] } }) ∧
  (∀ p m : LineMask, p &&& ~~~(p &&& m) = p &&& ~~~m)

/-- 41_aggregator section 2, AGG.UNDEF.RD (offset 1 is undefined by decision D4). -/
def Obligations.UndefinedAggregatorReadReturnsZero : Prop :=
  (∀ d, decode .aggregator (.access 0x4F0000011#36 d) = .instr .aggUndefRd) ∧
  ∀ s : State, exec .aggUndefRd s =
    .next { s with
      env := { s.env with log := s.env.log ++ [{ dev := .agg, off := 1#4, dir := .read, v := none }] }
      out := { ret := some (.two 0x0000#16), events := [.log { dev := .agg, off := 1#4, dir := .read, v := none }] } }

/-- 41_aggregator section 2, AGG.UNDEF.WR (that it asserts nothing is decision D27). -/
def Obligations.UndefinedAggregatorWriteIsOnlyLogged : Prop :=
  (∀ d, decode .aggregator (.access 0x5F0000011#36 d) = .instr (.aggUndefWr (d.extractLsb' 0 16))) ∧
  ∀ (v : HalfWord) (s : State), exec (.aggUndefWr v) s =
    .next { s with
      env := { s.env with log := s.env.log ++ [{ dev := .agg, off := 1#4, dir := .write, v := some v }] }
      out := { ret := none, events := [.log { dev := .agg, off := 1#4, dir := .write, v := some v }] } }

/-- 41_aggregator section 3, EV.RAISE (event or level is decision D10): bit `l` becomes pending, no other bit changes, and
the output line is asserted even where the bit was already set; under the level mode line `l` is kept active. -/
def Obligations.RaiseSetsItsPendingBit : Prop :=
  (∀ (w : OverlapWinner) (l : Line), decode w (.event (0b00100000000000#14 ++ l)) = .instr (.evRaise l)) ∧
  ∀ (l : Line) (s : State), ∃ t, exec (.evRaise l) s = .next t ∧
    (∀ j : Line, t.agg.pending.getLsbD j.toNat = (s.agg.pending.getLsbD j.toNat || decide (j = l))) ∧
    (∀ j : Line, t.env.aggIn.getLsbD j.toNat =
      (s.env.aggIn.getLsbD j.toNat || (decide (j = l) && decide (s.cfg.aggInputMode = .level)))) ∧
    t = { s with
      agg := t.agg
      env := { s.env with aggIn := t.env.aggIn, aggOut := true, aggAsserts := s.env.aggAsserts + 1 }
      out := { ret := none, events := [.assertLine .aggOut] } }

/-- 41_aggregator section 3, EV.LOWER (decision D11): no pending bit changes; the output line is asserted exactly under
`AGG_ASSERT_ON_LOWER`; under the level mode line `l` is kept inactive. -/
def Obligations.LowerKeepsThePendingBits : Prop :=
  (∀ (w : OverlapWinner) (l : Line), decode w (.event (0b00110000000000#14 ++ l)) = .instr (.evLower l)) ∧
  ∀ (l : Line) (s : State), ∃ t, exec (.evLower l) s = .next t ∧
    (∀ j : Line, t.env.aggIn.getLsbD j.toNat =
      (s.env.aggIn.getLsbD j.toNat && !(decide (j = l) && decide (s.cfg.aggInputMode = .level)))) ∧
    t = { s with
      env := { s.env with
        aggIn := t.env.aggIn
        aggOut := s.env.aggOut || s.cfg.aggAssertOnLower
        aggAsserts := s.env.aggAsserts + (if s.cfg.aggAssertOnLower then 1 else 0) }
      out := { ret := none, events := if s.cfg.aggAssertOnLower then [.assertLine .aggOut] else [] } }

/-- 10_state section 4 (the aggregator's invariant; the event mode is decision D10): after any run under
`AGG_INPUT_MODE = event`, the bit of a line is pending exactly when the line was raised and not cleared since, or was
pending at the start and never cleared. -/
def Obligations.PendingBitMeansRaisedAndNotCleared : Prop :=
  ∀ (is : List Instr) (s t : State) (l : Line), s.cfg.aggInputMode = .event → runInstrs is s = .next t →
    (t.agg.pending.getLsbD l.toNat = true ↔
      (∃ before after : List Instr, is = before ++ .evRaise l :: after ∧ ∀ i ∈ after, clearsLine l i = false) ∨
      (s.agg.pending.getLsbD l.toNat = true ∧ ∀ i ∈ is, clearsLine l i = false))

/-- 41_aggregator section 4 (decision D12): each PENDING write and each raise counts one assertion of the output line,
nothing else does but a lower under `AGG_ASSERT_ON_LOWER`; the output is high after an assertion, and no operation drives
it low. -/
def Obligations.AggregatorOutputIsAssertedAndNeverLowered : Prop :=
  ∀ (i : Instr) (s t : State), exec i s = .next t →
    t.env.aggAsserts = s.env.aggAsserts + (if assertsAggOut s i then 1 else 0) ∧
    t.env.aggOut = (s.env.aggOut || assertsAggOut s i)

/-- 70_reset section 3, the pending clear (the event mode is decision D10): a program reads PENDING, lines are raised, and
the program writes back the value it read. The bits it read are cleared, and no raise of a line it did not read as pending
is lost: a bit is pending after the write exactly when its line was raised in between and was not pending at the read. -/
def Obligations.WritingBackTheReadValueKeepsLaterRaises : Prop :=
  ∀ (s r u : State) (ls : List Line) (v : HalfWord) (l : Line), s.cfg.aggInputMode = .event →
    exec .pendingRd s = .next r → r.out.ret = some (.two v) → runInstrs (ls.map .evRaise) r = .next u →
    ∃ t, exec (.pendingWr v) u = .next t ∧
      (t.agg.pending.getLsbD l.toNat = true ↔ l ∈ ls ∧ s.agg.pending.getLsbD l.toNat = false)

/-! ### Width, timer, reset -/

/-- 20_memory section 2 (decision D3): an access of 1, 4 or 8 bytes to a window, under `BAD_WIDTH_POLICY = fault`, decodes to
BADWIDTH and faults with its access key; there is no next state, so nothing is returned, sent, cleared or logged. -/
def Obligations.WrongWidthFaults : Prop :=
  ∀ (s : State) (z : WrongSize) (a : Addr) (wdata : Option Data), s.cfg.badWidthPolicy = .fault →
    0xF0000008 ≤ a.toNat → a.toNat ≤ 0xF0000017 →
    exec (.badWidth z a wdata) s =
      .fault (.badWidth ((match z with | .one => 0b00#2 | .four => 0b10#2 | .eight => 0b11#2) ++ 0b0#1 ++
        (if wdata.isSome then 0b1#1 else 0b0#1) ++ a))

/-- 20_memory section 2 (the alternative of decision D3; that the log record holds D[15:0] and the access's own offset, 0 at the
aggregator's base too, and that a read returns 0 at its own width is assumption log 10): under `BAD_WIDTH_POLICY = ignore`
an access of 1, 4 or 8 bytes to a window completes as an undefined-offset access of the device that answers its start
address: logged, a read returns 0 in as many bytes as it reads, nothing else changes. -/
def Obligations.WrongWidthIgnoredIsAnUndefinedAccess : Prop :=
  ∀ (s : State) (z : WrongSize) (a : Addr) (wdata : Option Data), s.cfg.badWidthPolicy = .ignore →
    0xF0000008 ≤ a.toNat → a.toNat ≤ 0xF0000017 →
    ∃ rec : LogRecord,
      (if s.cfg.overlapWinner = .aggregator ∧ (a = 0xF0000010#32 ∨ a = 0xF0000011#32) then
        rec.dev = .agg ∧ rec.off.toNat = a.toNat - 0xF0000010
      else rec.dev = .serial ∧ rec.off.toNat = a.toNat - 0xF0000008) ∧
      rec.dir = (if wdata.isSome then .write else .read) ∧ rec.v = wdata.map (fun d => d.extractLsb' 0 16) ∧
      exec (.badWidth z a wdata) s =
        .next { s with
          env := { s.env with log := s.env.log ++ [rec] }
          out := {
            ret := if wdata.isSome then none
              else some (match z with | .one => .one 0x00#8 | .four => .four 0x00000000#32 | .eight => .eight 0#64)
            events := [.log rec] } }

/-- 42_timer R150. -/
def Obligations.ExpiryAssertsTheTimerLineOnce : Prop :=
  (∀ w, decode w (.event 0x4000#16) = .instr .evExpire) ∧
  ∀ s : State, exec .evExpire s =
    .next { s with
      env := { s.env with timerAsserts := s.env.timerAsserts + 1 }
      out := { ret := none, events := [.assertLine .timerOut] } }

/-- 42_timer section on the line level (decision D13): under `pulse` an expiry drives the input active and inactive again and
its level between steps is 0; under `hold` the input is 1 after an expiry, and no operation lowers it. -/
def Obligations.TimerLineLevelFollowsItsMode : Prop :=
  (∀ s : State, s.cfg.timerLineMode = .pulse → timerDrive s.cfg.timerLineMode = [true, false] ∧
    cpuIrqInput s 1 = some false) ∧
  (∀ s t : State, s.cfg.timerLineMode = .hold → exec .evExpire s = .next t →
    timerDrive s.cfg.timerLineMode = [true] ∧ cpuIrqInput t 1 = some true) ∧
  (∀ (i : Instr) (s t : State), s.cfg.timerLineMode = .hold → cpuIrqInput s 1 = some true → exec i s = .next t →
    cpuIrqInput t 1 = some true)

/-- 70_reset sections 1 and 2 (that a pending byte is lost with no notification is decision D19; the CPU's own reset is
outside, D22): reset zeroes the serial fields and `pending`, forces the bootstrap program counter into the CPU, and leaves
the environment record; after it the registers read 0x0000, 0x0001, 0x0000, 0x0000 and 0x0000. -/
def Obligations.ResetZeroesTheDevices : Prop :=
  (∀ w, decode w (.event 0x5000#16) = .instr .evReset) ∧
  ∀ s : State, ∃ t, exec .evReset s = .next t ∧
    t = { s with
      serial := { rxReady := false, rxByte := 0x00#8, lastTxByte := 0x00#8 }
      agg := { pending := 0b0000#4 }
      cpuResetPc := s.boot.bootstrapPC
      out := { ret := none, events := [] } } ∧
    (∃ u, exec .rxreadyRd t = .next u ∧ u.out.ret = some (.two 0x0000#16)) ∧
    (∃ u, exec .txreadyRd t = .next u ∧ u.out.ret = some (.two 0x0001#16)) ∧
    (∃ u, exec .rxbyteRd t = .next u ∧ u.out.ret = some (.two 0x0000#16)) ∧
    (∃ u, exec .txbyteRd t = .next u ∧ u.out.ret = some (.two 0x0000#16)) ∧
    (∃ u, exec .pendingRd t = .next u ∧ u.out.ret = some (.two 0x0000#16))

/-! ### The whole machine -/

/-- 60_exceptions section 1, the logged-and-ignored accesses (that a write to the aggregator's offset 1 asserts nothing is
decision D27, assumption log 15): a logged-and-ignored access completes in every state: its diagnostic is appended to
the log, a read returns 0, a write returns nothing, and nothing else changes. -/
def Obligations.LoggedAndIgnoredAccessesComplete : Prop :=
  ∀ (i : Instr) (s : State) (rec : LogRecord), ignoredRecord i = some rec →
    exec i s =
      .next { s with
        env := { s.env with log := s.env.log ++ [rec] }
        out := { ret := match rec.dir with | .read => some (.two 0x0000#16) | .write => none, events := [.log rec] } }

/-- 30_encoding section 2, read data (that RXBYTE is read with no byte pending as with one is decision D8, assumption log
14): every register read returns its field zero-extended to 16 bits; an undefined offset returns 0x0000. -/
def Obligations.ReadsAreZeroExtended : Prop :=
  ∀ s : State,
    (∃ t, exec .rxreadyRd s = .next t ∧ t.out.ret = some (.two (BitVec.ofNat 16 (if s.serial.rxReady then 1 else 0)))) ∧
    (∃ t, exec .txreadyRd s = .next t ∧ t.out.ret = some (.two 0x0001#16)) ∧
    (∃ t, exec .rxbyteRd s = .next t ∧ t.out.ret = some (.two (BitVec.ofNat 16 s.serial.rxByte.toNat))) ∧
    (∃ t, exec .txbyteRd s = .next t ∧ t.out.ret = some (.two (BitVec.ofNat 16 s.serial.lastTxByte.toNat))) ∧
    (∃ t, exec .pendingRd s = .next t ∧ t.out.ret = some (.two (BitVec.ofNat 16 s.agg.pending.toNat))) ∧
    (∀ off, ∃ t, exec (.serialUndefRd off) s = .next t ∧ t.out.ret = some (.two 0x0000#16)) ∧
    (∃ t, exec .aggUndefRd s = .next t ∧ t.out.ret = some (.two 0x0000#16))

/-- 30_encoding section 1 and 00_scope section 4 (the key is decision D21; the width of a wrong-width read that completes
is assumption log 10): whenever the step of a bus access completes, a read returns a value of the width its key gives and
a write returns none; an event returns none. -/
def Obligations.ReadsReturnTheirAccessWidth : Prop :=
  (∀ (s t : State) (k : AccessKey) (d : Data) (rest : List Input),
    s.schedule = .access k d :: rest → step s = .next t →
    t.out.ret.map readBytes = if k.getLsbD 32 = true then none else some (2 ^ (k.extractLsb' 34 2).toNat)) ∧
  (∀ (s t : State) (k : EventKey) (rest : List Input),
    s.schedule = .event k :: rest → step s = .next t → t.out.ret = none)

/-- 20_memory section 4, idempotency: a repeated read of RXREADY, TXREADY, TXBYTE or PENDING returns the same value; a
repeated RXBYTE read returns the same value and notifies twice; a repeated TXBYTE write sends the byte twice; a repeated
PENDING write of one value changes no bit the second time and asserts the output again. -/
def Obligations.RepeatedAccessesAreIdempotentOrNot : Prop :=
  (∀ (i : Instr) (s t : State), i = .rxreadyRd ∨ i = .txreadyRd ∨ i = .txbyteRd ∨ i = .pendingRd →
    exec i s = .next t → exec i t = .next t) ∧
  (∀ s t : State, exec .rxbyteRd s = .next t →
    ∃ u, exec .rxbyteRd t = .next u ∧ u.out.ret = t.out.ret ∧ u.env.accepts = s.env.accepts + 2) ∧
  (∀ (v : HalfWord) (s t : State), exec (.txbyteWr v) s = .next t →
    ∃ u, exec (.txbyteWr v) t = .next u ∧
      u.env.tx = s.env.tx ++ [v.extractLsb' 0 8, v.extractLsb' 0 8]) ∧
  (∀ (v : HalfWord) (s t : State), exec (.pendingWr v) s = .next t →
    ∃ u, exec (.pendingWr v) t = .next u ∧ u.agg = t.agg ∧ u.env.aggAsserts = s.env.aggAsserts + 2)

/-- 00_scope section 4 and 10_state section 6 (decision D18): no operation takes back what the environment record holds:
the transmitted stream and the log only grow at their end, the counts never fall, a reset included. What a step adds is
what its result says it emitted, in order. -/
def Obligations.EnvironmentRecordOnlyGrowsByTheEmittedEvents : Prop :=
  ∀ (i : Instr) (s t : State), exec i s = .next t →
    t.env.tx = s.env.tx ++ t.out.events.filterMap (fun e => match e with | .tx b => some b | _ => none) ∧
    t.env.log = s.env.log ++ t.out.events.filterMap (fun e => match e with | .log r => some r | _ => none) ∧
    t.env.accepts = s.env.accepts + t.out.events.count .acceptInput ∧
    t.env.aggAsserts = s.env.aggAsserts + t.out.events.count (.assertLine .aggOut) ∧
    t.env.timerAsserts = s.env.timerAsserts + t.out.events.count (.assertLine .timerOut) ∧
    (s.cfg.aggInputMode = .event → t.env.aggIn = s.env.aggIn)

/-- 41_aggregator section 4 and 60_exceptions section 2 (the wiring): the serial and the timer side do not see the
aggregator, nor it them. From two states that agree on the serial fields and the settings, an operation that is not the
aggregator's ends alike, with the same result and serial fields; from two that agree on the aggregator's fields and the
settings, an aggregator operation completes in both with the same result and aggregator fields. -/
def Obligations.SerialAndAggregatorDoNotInterfere : Prop :=
  (∀ (i : Instr) (s s' t : State), isAggOp i = false → s.serial = s'.serial → s.cfg = s'.cfg → exec i s = .next t →
    t.agg = (if i = .evReset then { pending := 0b0000#4 } else s.agg) ∧
    t.env.aggIn = s.env.aggIn ∧ t.env.aggOut = s.env.aggOut ∧ t.env.aggAsserts = s.env.aggAsserts ∧
    ∃ t', exec i s' = .next t' ∧ t'.serial = t.serial ∧ t'.out = t.out) ∧
  (∀ (i : Instr) (s s' t : State), isAggOp i = true → s.agg = s'.agg → s.env.aggIn = s'.env.aggIn → s.cfg = s'.cfg →
    exec i s = .next t →
    t.serial = s.serial ∧ t.env.tx = s.env.tx ∧ t.env.accepts = s.env.accepts ∧
    t.env.timerAsserts = s.env.timerAsserts ∧
    ∃ t', exec i s' = .next t' ∧ t'.agg = t.agg ∧ t'.env.aggIn = t.env.aggIn ∧ t'.out = t.out)

/-- 60_exceptions section 1 (decisions D3, D9): a well-formed operation is never refused, and it faults exactly where the
spec's table says: BADWIDTH under `BAD_WIDTH_POLICY = fault`, and a receive while a byte is pending under
`RX_OVERRUN_POLICY = fault`; everywhere else it completes. -/
def Obligations.OperationsFaultOnlyWhereTheSpecSays : Prop :=
  ∀ (i : Instr) (s : State), i.wf s.cfg.overlapWinner = true →
    (∀ r, exec i s ≠ .refused r) ∧
    ((∃ f, exec i s = .fault f) ↔
      ((i.opcode = .badWidth ∧ s.cfg.badWidthPolicy = .fault) ∨
        (i.opcode = .evRx ∧ s.serial.rxReady = true ∧ s.cfg.rxOverrunPolicy = .fault)))

/-- 10_state section 9 and 00_scope section 3: no step changes the settings or the boot context ("immutable after boot"), and
a step takes at most the head off the schedule. -/
def Obligations.NoStepChangesSettingsOrBootContext : Prop :=
  ∀ s t : State, step s = .next t → t.cfg = s.cfg ∧ t.boot = s.boot ∧ t.schedule = s.schedule.tail

/-- The invariant `BlockInv` (see its docstring for the rules) is kept by every step. -/
def Obligations.EveryStepKeepsTheBlockInvariant : Prop :=
  ∀ s t : State, BlockInv s → step s = .next t → BlockInv t

/-- The invariant holds right after reset. -/
def Obligations.ResetMeetsTheBlockInvariant : Prop := BlockInv State.reset

/-- 20_memory section 6 and 60_exceptions section 5 (one total order of atomic steps, decision D15): running a schedule of
encoded well-formed operations step by step through the decoder is running those operations one after the other. -/
def Obligations.RunningASchedulePerformsItsOperations : Prop :=
  ∀ (is : List Instr) (rest : List Input) (s : State),
    (∀ i ∈ is, i.wf s.cfg.overlapWinner = true) → s.schedule = is.map encode ++ rest →
    Host.Core.run Sys2Proof.core is.length s = runInstrs is { s with schedule := rest }

/-! ### Interfaces and platform -/

/-- 60_exceptions section 2 (decisions D7, D13): the block drives CPU interrupt input #4 with the serial line, a function of
the serial fields alone, #1 with the timer line, and no other input; the aggregator's output reaches none of them. -/
def Obligations.InterruptLinesAreRoutedAsWired : Prop :=
  (∀ s : State,
    cpuIrqInput s 4 = some (serialIrqFn s.serial.rxReady s.serial.rxByte s.serial.lastTxByte) ∧
    cpuIrqInput s 1 = some (decide (s.cfg.timerLineMode = .hold ∧ s.env.timerAsserts ≠ 0)) ∧
    ∀ n, n ≠ 1 → n ≠ 4 → cpuIrqInput s n = none) ∧
  (∀ (i : Instr) (s t : State) (n : Nat), isAggOp i = true → exec i s = .next t → cpuIrqInput t n = cpuIrqInput s n)

/-- 20_memory section 3 (`MMIO_BYTE_ORDER`, decision D2): under big the CPU's byte at the higher address holds bits [7:0],
under little the one at the lower address does; either way the two bytes carry the 16-bit value and no more. -/
def Obligations.ByteOrderPlacesTheLowByte : Prop :=
  (∀ v : HalfWord, (cpuBytes .big v).2 = v.extractLsb' 0 8 ∧ (cpuBytes .little v).1 = v.extractLsb' 0 8) ∧
  (∀ (o : ByteOrder) (v : HalfWord), deviceValue o (cpuBytes o v) = v) ∧
  (∀ (o : ByteOrder) (bs : Byte × Byte), cpuBytes o (deviceValue o bs) = bs) ∧
  (∀ v : HalfWord, cpuBytes .little v = (cpuBytes .big v).swap)

/-- 10_state section 8 (decision D24): a restore writes exactly the four persisted fields and emits nothing; restoring what
was saved after any operations gives back the saved register fields and keeps the rest of the later state. -/
def Obligations.SnapshotRestoresTheFourFields : Prop :=
  (∀ s t : State, restoreSnapshot (saveSnapshot s) t = { t with serial := s.serial, agg := s.agg }) ∧
  (∀ (p : Snapshot) (s : State), saveSnapshot (restoreSnapshot p s) = p)

/-- 70_reset section 1 (boot) and 60_exceptions section 1 (decisions D20, D29, D30, D32, D33; where the RAM bound is checked
is assumption log 9, the page size log 12): which configurations launch, and what. A configuration with a resolvable CPU
variant, an external RAM below the windows, and no kernel, or a loaded one with no ramdisk or one that fits, launches with
the bootstrap program counter and the ramdisk's address the boot rules give. A launched machine had a resolvable CPU variant, an external RAM below the
windows, and either no kernel, with bootstrap program counter 0x00001000, or a loaded one, with the kernel's entry
address and a ramdisk, if configured, at the first page boundary at or above the kernel's high-water mark, where it fits;
its state is the power-on state with the CPU's program counter there. -/
def Obligations.AssemblyLaunchesAsTheBootRulesSay : Prop :=
  (∀ (c : BootConfig) (p : Params), c.cpuResolves = true → c.ramSize ≤ 0xC0001008 →
    (c.kernel = none →
      ∃ s, assemble c p = .launched s ∧ s.boot.bootstrapPC = 0x00001000#32 ∧ s.boot.ramdiskAt = none) ∧
    (∀ entry h, c.kernel = some (.loaded entry h) → c.initrdSize = none →
      ∃ s, assemble c p = .launched s ∧ s.boot.bootstrapPC = entry ∧ s.boot.ramdiskAt = none) ∧
    (∀ entry h size, c.kernel = some (.loaded entry h) → c.initrdSize = some size →
      (h + 4095) / 4096 * 4096 + size ≤ c.ramSize →
      ∃ s, assemble c p = .launched s ∧ s.boot.bootstrapPC = entry ∧
        s.boot.ramdiskAt = some ((h + 4095) / 4096 * 4096))) ∧
  ∀ (c : BootConfig) (p : Params) (s : State), assemble c p = .launched s →
    c.cpuResolves = true ∧ c.ramSize ≤ 0xC0001008 ∧
    s.cfg = p ∧ s.boot.config = c ∧ s.cpuResetPc = s.boot.bootstrapPC ∧
    s.serial = State.reset.serial ∧ s.agg = State.reset.agg ∧ s.env = State.reset.env ∧ s.schedule = [] ∧
    ((c.kernel = none ∧ s.boot.bootstrapPC = 0x00001000#32 ∧ s.boot.ramdiskAt = none) ∨
      ∃ entry h, c.kernel = some (.loaded entry h) ∧ s.boot.bootstrapPC = entry ∧
        ((c.initrdSize = none ∧ s.boot.ramdiskAt = none) ∨
          ∃ size page, c.initrdSize = some size ∧ s.boot.ramdiskAt = some page ∧ page % 4096 = 0 ∧
            h ≤ page ∧ page < h + 4096 ∧ page + size ≤ c.ramSize))

/-- 60_exceptions section 1 and 20_memory section 5 (decisions D20, D29, D30, D32; the order of the checks is assumption log 9):
the configurations that have no run. That the refusal of a too large external RAM records its size is the model's choice
(assumption log 24). -/
def Obligations.FatalConfigurationsHaveNoLaunchState : Prop :=
  (∀ (c : BootConfig) (p : Params), c.cpuResolves = false → assemble c p = .fatal .unresolvableCpuVariant) ∧
  (∀ (c : BootConfig) (p : Params), c.cpuResolves = true → 0xC0001008 < c.ramSize →
    assemble c p = .refused (.ramOverlapsMmio c.ramSize)) ∧
  (∀ (c : BootConfig) (p : Params), c.cpuResolves = true → c.ramSize ≤ 0xC0001008 →
    (c.kernel = some .missing → assemble c p = .fatal .kernelMissing) ∧
    (c.kernel = some .zeroSize → assemble c p = .fatal .kernelZeroSize) ∧
    (c.kernel = some .unreadable → assemble c p = .fatal .kernelUnreadable) ∧
    (∀ entry h size, c.kernel = some (.loaded entry h) → c.initrdSize = some size →
      c.ramSize < (h + 4095) / 4096 * 4096 + size → assemble c p = .fatal .ramdiskDoesNotFit))

/-- 20_memory section 5 (the machine map; the bound on external RAM is decision D32): the map's regions, by address, and that
external RAM within the bound never holds an address of a window. -/
def Obligations.MachineMapRegionsDoNotReachTheWindows : Prop :=
  (∀ (n : Nat) (a : Addr), regionOf n a = some .mmio ↔ 0xF0000008 ≤ a.toNat ∧ a.toNat ≤ 0xF0000017) ∧
  (∀ (n : Nat) (a : Addr), regionOf n a = some .rom ↔ 0x00001000 ≤ a.toNat ∧ a.toNat ≤ 0x00020FFF) ∧
  (∀ (n : Nat) (a : Addr), regionOf n a = some .ocram ↔ 0x10000000 ≤ a.toNat ∧ a.toNat ≤ 0x10000FFF) ∧
  (∀ (n : Nat) (a : Addr), n ≤ 0xC0001008 →
    (regionOf n a = some .extram ↔ 0x2FFFF000 ≤ a.toNat ∧ a.toNat < 0x2FFFF000 + n)) ∧
  (∀ (n : Nat) (w : OverlapWinner) (a : Addr), n ≤ 0xC0001008 → (route w a ≠ none ↔ regionOf n a = some .mmio))
end

