-- ==== Sys2Proof/Laws/Decode.lean ====
section
/-! SUPPORT. The fields of a key read back from the key that was built, and the routing of an address by its window. -/

namespace Sys2Proof

open Sys2Proof.Config Sys2Proof.Machine

/-- An access key, bit by bit: the address, the direction, the reserved bit, the width field (30_encoding R80). -/
theorem accessKey_getLsbD (z : Size) (b : Bool) (a : Addr) (i : Nat) :
    (accessKey z b a).getLsbD i =
      if i < 32 then a.getLsbD i
      else if i = 32 then b
      else if i = 33 then false
      else (sizeBits z).getLsbD (i - 34) := by
  refine (BitVec.getLsbD_append (x := sizeBits z ++ 0#1 ++ BitVec.ofBool b) (y := a)).trans ?_
  rw [BitVec.getLsbD_append, BitVec.getLsbD_append]
  obtain h | rfl | rfl | h : i < 32 ∨ i = 32 ∨ i = 33 ∨ 34 ≤ i := by omega
  · simp [h]
  · simp
  · simp
  · have h0 : ¬ i < 32 := by omega
    have h1 : ¬ i - 32 < 1 := by omega
    have h2 : ¬ i - 32 - 1 < 1 := by omega
    have h3 : i ≠ 32 := by omega
    have h4 : i ≠ 33 := by omega
    have h5 : i - 32 - 1 - 1 = i - 34 := by omega
    simp only [h0, h1, h2, h3, h4, h5, if_false]

@[simp] theorem keyReserved_accessKey (z : Size) (b : Bool) (a : Addr) : keyReserved (accessKey z b a) = false :=
  accessKey_getLsbD z b a 33

@[simp] theorem keyWrite_accessKey (z : Size) (b : Bool) (a : Addr) : keyWrite (accessKey z b a) = b :=
  accessKey_getLsbD z b a 32

@[simp] theorem keyAddr_accessKey (z : Size) (b : Bool) (a : Addr) : keyAddr (accessKey z b a) = a := by
  apply BitVec.eq_of_getLsbD_eq
  intro i hi
  rw [keyAddr, BitVec.getLsbD_extractLsb', accessKey_getLsbD]
  simp [hi]

/-- The `sz` field of an access key. -/
theorem accessKey_sz (z : Size) (b : Bool) (a : Addr) : (accessKey z b a).extractLsb' 34 2 = sizeBits z := by
  apply BitVec.eq_of_getLsbD_eq
  intro i hi
  have h1 : ¬ 34 + i < 32 := by omega
  have h2 : 34 + i ≠ 32 := by omega
  have h3 : 34 + i ≠ 33 := by omega
  rw [BitVec.getLsbD_extractLsb', accessKey_getLsbD]
  simp [hi, h1, h2, h3]

@[simp] theorem keySize_accessKey (z : Size) (b : Bool) (a : Addr) : keySize (accessKey z b a) = z := by
  rw [keySize, accessKey_sz]
  match z with
  | .two => rfl
  | .wrong .one => rfl
  | .wrong .four => rfl
  | .wrong .eight => rfl

@[simp] theorem eventKind_eventKey (k : BitVec 4) (p : Byte) : eventKind (eventKey k p) = k := by
  revert k p; decide

@[simp] theorem eventReserved_eventKey (k : BitVec 4) (p : Byte) : eventReserved (eventKey k p) = 0#4 := by
  revert k p; decide

@[simp] theorem eventPayload_eventKey (k : BitVec 4) (p : Byte) : eventPayload (eventKey k p) = p := by
  revert k p; decide

/-- An address is in the serial window exactly from 0xF0000008 to 0xF0000017 (20_memory R50). -/
theorem inSerialWindow_iff (a : Addr) : inSerialWindow a = true ↔ 0xF0000008 ≤ a.toNat ∧ a.toNat ≤ 0xF0000017 := by
  simp only [inSerialWindow, inWindow, serialBase, serialSpan, Bool.and_eq_true, decide_eq_true_eq, BitVec.toNat_ofNat]
  omega

/-- An address is in the aggregator window exactly at 0xF0000010 and 0xF0000011 (20_memory R50). -/
theorem inAggWindow_iff (a : Addr) : inAggWindow a = true ↔ a = 0xF0000010#32 ∨ a = 0xF0000011#32 := by
  simp only [inAggWindow, inWindow, aggBase, aggSpan, Bool.and_eq_true, decide_eq_true_eq, BitVec.toNat_ofNat,
    ← BitVec.toNat_inj]
  omega

/-- The block decodes an address exactly in the serial window, which holds the aggregator's (20_memory R53). -/
theorem route_isSome_iff (w : OverlapWinner) (a : Addr) :
    (route w a).isSome = true ↔ 0xF0000008 ≤ a.toNat ∧ a.toNat ≤ 0xF0000017 := by
  unfold route
  split
  · rename_i h
    have := (inAggWindow_iff a).mp h.2
    rcases this with rfl | rfl <;> simp
  · split
    · rename_i h
      simpa using (inSerialWindow_iff a).mp h
    · rename_i h
      simpa using mt (inSerialWindow_iff a).mpr h

end Sys2Proof
end

