-- ==== Sys2Proof/Laws/State.lean ====
section
/-! SUPPORT. What each named update of the state does to each field: one lemma per field per update. -/

namespace Sys2Proof.Machine

open Sys2Proof.Config

variable (s : State)

@[simp] theorem startStep_serial : (startStep s).serial = s.serial := rfl
@[simp] theorem startStep_agg : (startStep s).agg = s.agg := rfl
@[simp] theorem startStep_env : (startStep s).env = s.env := rfl
@[simp] theorem startStep_out : (startStep s).out = { ret := none, events := [] } := rfl
@[simp] theorem startStep_cpuResetPc : (startStep s).cpuResetPc = s.cpuResetPc := rfl
@[simp] theorem startStep_boot : (startStep s).boot = s.boot := rfl
@[simp] theorem startStep_cfg : (startStep s).cfg = s.cfg := rfl
@[simp] theorem startStep_schedule : (startStep s).schedule = s.schedule := rfl

@[simp] theorem emit_serial (ev : Event) : (emit ev s).serial = s.serial := rfl
@[simp] theorem emit_agg (ev : Event) : (emit ev s).agg = s.agg := rfl
@[simp] theorem emit_env (ev : Event) : (emit ev s).env = recordEvent s.env ev := rfl
@[simp] theorem emit_out (ev : Event) : (emit ev s).out = { s.out with events := s.out.events ++ [ev] } := rfl
@[simp] theorem emit_cpuResetPc (ev : Event) : (emit ev s).cpuResetPc = s.cpuResetPc := rfl
@[simp] theorem emit_boot (ev : Event) : (emit ev s).boot = s.boot := rfl
@[simp] theorem emit_cfg (ev : Event) : (emit ev s).cfg = s.cfg := rfl
@[simp] theorem emit_schedule (ev : Event) : (emit ev s).schedule = s.schedule := rfl

@[simp] theorem returnValue_serial (v : ReadValue) : (returnValue v s).serial = s.serial := rfl
@[simp] theorem returnValue_agg (v : ReadValue) : (returnValue v s).agg = s.agg := rfl
@[simp] theorem returnValue_env (v : ReadValue) : (returnValue v s).env = s.env := rfl
@[simp] theorem returnValue_out (v : ReadValue) : (returnValue v s).out = { s.out with ret := some v } := rfl
@[simp] theorem returnValue_cpuResetPc (v : ReadValue) : (returnValue v s).cpuResetPc = s.cpuResetPc := rfl
@[simp] theorem returnValue_boot (v : ReadValue) : (returnValue v s).boot = s.boot := rfl
@[simp] theorem returnValue_cfg (v : ReadValue) : (returnValue v s).cfg = s.cfg := rfl
@[simp] theorem returnValue_schedule (v : ReadValue) : (returnValue v s).schedule = s.schedule := rfl

@[simp] theorem ignoredWrite_serial (dev : Dev) (off : Offset) (v : HalfWord) :
    (ignoredWrite dev off v s).serial = s.serial := rfl
@[simp] theorem ignoredWrite_agg (dev : Dev) (off : Offset) (v : HalfWord) :
    (ignoredWrite dev off v s).agg = s.agg := rfl
@[simp] theorem ignoredWrite_env (dev : Dev) (off : Offset) (v : HalfWord) :
    (ignoredWrite dev off v s).env = recordEvent s.env (.log (logRecord dev off (some v))) := rfl
@[simp] theorem ignoredWrite_out (dev : Dev) (off : Offset) (v : HalfWord) :
    (ignoredWrite dev off v s).out = { s.out with events := s.out.events ++ [.log (logRecord dev off (some v))] } := rfl
@[simp] theorem ignoredWrite_cpuResetPc (dev : Dev) (off : Offset) (v : HalfWord) :
    (ignoredWrite dev off v s).cpuResetPc = s.cpuResetPc := rfl
@[simp] theorem ignoredWrite_boot (dev : Dev) (off : Offset) (v : HalfWord) :
    (ignoredWrite dev off v s).boot = s.boot := rfl
@[simp] theorem ignoredWrite_cfg (dev : Dev) (off : Offset) (v : HalfWord) :
    (ignoredWrite dev off v s).cfg = s.cfg := rfl
@[simp] theorem ignoredWrite_schedule (dev : Dev) (off : Offset) (v : HalfWord) :
    (ignoredWrite dev off v s).schedule = s.schedule := rfl

@[simp] theorem ignoredRead_serial (dev : Dev) (off : Offset) (z : Size) :
    (ignoredRead dev off z s).serial = s.serial := rfl
@[simp] theorem ignoredRead_agg (dev : Dev) (off : Offset) (z : Size) : (ignoredRead dev off z s).agg = s.agg := rfl
@[simp] theorem ignoredRead_env (dev : Dev) (off : Offset) (z : Size) :
    (ignoredRead dev off z s).env = recordEvent s.env (.log (logRecord dev off none)) := rfl
@[simp] theorem ignoredRead_out (dev : Dev) (off : Offset) (z : Size) :
    (ignoredRead dev off z s).out =
      { ret := some (zeroValue z), events := s.out.events ++ [.log (logRecord dev off none)] } := rfl
@[simp] theorem ignoredRead_cpuResetPc (dev : Dev) (off : Offset) (z : Size) :
    (ignoredRead dev off z s).cpuResetPc = s.cpuResetPc := rfl
@[simp] theorem ignoredRead_boot (dev : Dev) (off : Offset) (z : Size) : (ignoredRead dev off z s).boot = s.boot := rfl
@[simp] theorem ignoredRead_cfg (dev : Dev) (off : Offset) (z : Size) : (ignoredRead dev off z s).cfg = s.cfg := rfl
@[simp] theorem ignoredRead_schedule (dev : Dev) (off : Offset) (z : Size) :
    (ignoredRead dev off z s).schedule = s.schedule := rfl

@[simp] theorem machineReset_serial :
    (machineReset s).serial = { rxReady := false, rxByte := 0x00#8, lastTxByte := 0x00#8 } := rfl
@[simp] theorem machineReset_agg : (machineReset s).agg = { pending := 0b0000#4 } := rfl
@[simp] theorem machineReset_env : (machineReset s).env = s.env := rfl
@[simp] theorem machineReset_out : (machineReset s).out = s.out := rfl
@[simp] theorem machineReset_cpuResetPc : (machineReset s).cpuResetPc = s.boot.bootstrapPC := rfl
@[simp] theorem machineReset_boot : (machineReset s).boot = s.boot := rfl
@[simp] theorem machineReset_cfg : (machineReset s).cfg = s.cfg := rfl
@[simp] theorem machineReset_schedule : (machineReset s).schedule = s.schedule := rfl

@[simp] theorem restoreSnapshot_serial (p : Snapshot) :
    (restoreSnapshot p s).serial = { rxReady := p.rxReady, rxByte := p.rxByte, lastTxByte := p.lastTxByte } := rfl
@[simp] theorem restoreSnapshot_agg (p : Snapshot) : (restoreSnapshot p s).agg = { pending := p.pending } := rfl
@[simp] theorem restoreSnapshot_env (p : Snapshot) : (restoreSnapshot p s).env = s.env := rfl
@[simp] theorem restoreSnapshot_out (p : Snapshot) : (restoreSnapshot p s).out = s.out := rfl
@[simp] theorem restoreSnapshot_cpuResetPc (p : Snapshot) : (restoreSnapshot p s).cpuResetPc = s.cpuResetPc := rfl
@[simp] theorem restoreSnapshot_boot (p : Snapshot) : (restoreSnapshot p s).boot = s.boot := rfl
@[simp] theorem restoreSnapshot_cfg (p : Snapshot) : (restoreSnapshot p s).cfg = s.cfg := rfl
@[simp] theorem restoreSnapshot_schedule (p : Snapshot) : (restoreSnapshot p s).schedule = s.schedule := rfl

@[simp] theorem setReceived_serial (b : Byte) :
    (setReceived b s).serial = { s.serial with rxReady := true, rxByte := b } := rfl
@[simp] theorem setReceived_agg (b : Byte) : (setReceived b s).agg = s.agg := rfl
@[simp] theorem setReceived_env (b : Byte) : (setReceived b s).env = s.env := rfl
@[simp] theorem setReceived_out (b : Byte) : (setReceived b s).out = s.out := rfl
@[simp] theorem setReceived_cpuResetPc (b : Byte) : (setReceived b s).cpuResetPc = s.cpuResetPc := rfl
@[simp] theorem setReceived_boot (b : Byte) : (setReceived b s).boot = s.boot := rfl
@[simp] theorem setReceived_cfg (b : Byte) : (setReceived b s).cfg = s.cfg := rfl
@[simp] theorem setReceived_schedule (b : Byte) : (setReceived b s).schedule = s.schedule := rfl

@[simp] theorem clearRxReady_serial : (clearRxReady s).serial = { s.serial with rxReady := false } := rfl
@[simp] theorem clearRxReady_agg : (clearRxReady s).agg = s.agg := rfl
@[simp] theorem clearRxReady_env : (clearRxReady s).env = s.env := rfl
@[simp] theorem clearRxReady_out : (clearRxReady s).out = s.out := rfl
@[simp] theorem clearRxReady_cpuResetPc : (clearRxReady s).cpuResetPc = s.cpuResetPc := rfl
@[simp] theorem clearRxReady_boot : (clearRxReady s).boot = s.boot := rfl
@[simp] theorem clearRxReady_cfg : (clearRxReady s).cfg = s.cfg := rfl
@[simp] theorem clearRxReady_schedule : (clearRxReady s).schedule = s.schedule := rfl

@[simp] theorem ackPending_serial (m : LineMask) : (ackPending m s).serial = s.serial := rfl
@[simp] theorem ackPending_agg (m : LineMask) :
    (ackPending m s).agg = { pending := pendingAfterWrite s.cfg.aggInputMode s.env.aggIn s.agg.pending m } := rfl
@[simp] theorem ackPending_env (m : LineMask) : (ackPending m s).env = s.env := rfl
@[simp] theorem ackPending_out (m : LineMask) : (ackPending m s).out = s.out := rfl
@[simp] theorem ackPending_cpuResetPc (m : LineMask) : (ackPending m s).cpuResetPc = s.cpuResetPc := rfl
@[simp] theorem ackPending_boot (m : LineMask) : (ackPending m s).boot = s.boot := rfl
@[simp] theorem ackPending_cfg (m : LineMask) : (ackPending m s).cfg = s.cfg := rfl
@[simp] theorem ackPending_schedule (m : LineMask) : (ackPending m s).schedule = s.schedule := rfl

@[simp] theorem setPending_serial (i : Line) : (setPending i s).serial = s.serial := rfl
@[simp] theorem setPending_agg (i : Line) : (setPending i s).agg = { pending := s.agg.pending ||| lineBit i } := rfl
@[simp] theorem setPending_env (i : Line) : (setPending i s).env = s.env := rfl
@[simp] theorem setPending_out (i : Line) : (setPending i s).out = s.out := rfl
@[simp] theorem setPending_cpuResetPc (i : Line) : (setPending i s).cpuResetPc = s.cpuResetPc := rfl
@[simp] theorem setPending_boot (i : Line) : (setPending i s).boot = s.boot := rfl
@[simp] theorem setPending_cfg (i : Line) : (setPending i s).cfg = s.cfg := rfl
@[simp] theorem setPending_schedule (i : Line) : (setPending i s).schedule = s.schedule := rfl

@[simp] theorem driveLine_serial (i : Line) (b : Bool) : (driveLine i b s).serial = s.serial := by
  unfold driveLine; split <;> rfl
@[simp] theorem driveLine_agg (i : Line) (b : Bool) : (driveLine i b s).agg = s.agg := by
  unfold driveLine; split <;> rfl
@[simp] theorem driveLine_out (i : Line) (b : Bool) : (driveLine i b s).out = s.out := by
  unfold driveLine; split <;> rfl
@[simp] theorem driveLine_cpuResetPc (i : Line) (b : Bool) : (driveLine i b s).cpuResetPc = s.cpuResetPc := by
  unfold driveLine; split <;> rfl
@[simp] theorem driveLine_boot (i : Line) (b : Bool) : (driveLine i b s).boot = s.boot := by
  unfold driveLine; split <;> rfl
@[simp] theorem driveLine_cfg (i : Line) (b : Bool) : (driveLine i b s).cfg = s.cfg := by
  unfold driveLine; split <;> rfl
@[simp] theorem driveLine_schedule (i : Line) (b : Bool) : (driveLine i b s).schedule = s.schedule := by
  unfold driveLine; split <;> rfl

/-- The input line levels after a line is driven: unchanged under the event mode, line `i` set or cleared under the level
mode (41_aggregator R139). -/
theorem driveLine_env (i : Line) (b : Bool) :
    (driveLine i b s).env = { s.env with
      aggIn := if s.cfg.aggInputMode = .level then
          (if b then s.env.aggIn ||| lineBit i else s.env.aggIn &&& ~~~(lineBit i))
        else s.env.aggIn } := by
  unfold driveLine; split <;> simp_all

end Sys2Proof.Machine
end

