-- ==== Sys2Proof/Laws/Ops.lean ====
section
/-! SUPPORT. One lemma per shared operation that says all it can do, and the inversion of a step. -/

namespace Sys2Proof.Machine

open Sys2Proof.Config

/-! ### The environment record, event by event (10_state R34) -/

@[simp] theorem recordEvent_tx (e : Env) (b : Byte) : recordEvent e (.tx b) = { e with tx := e.tx ++ [b] } := rfl
@[simp] theorem recordEvent_acceptInput (e : Env) :
    recordEvent e .acceptInput = { e with accepts := e.accepts + 1 } := rfl
@[simp] theorem recordEvent_log (e : Env) (r : LogRecord) :
    recordEvent e (.log r) = { e with log := e.log ++ [r] } := rfl
@[simp] theorem recordEvent_aggOut (e : Env) :
    recordEvent e (.assertLine .aggOut) = { e with aggOut := true, aggAsserts := e.aggAsserts + 1 } := rfl
@[simp] theorem recordEvent_timerOut (e : Env) :
    recordEvent e (.assertLine .timerOut) = { e with timerAsserts := e.timerAsserts + 1 } := rfl

/-! ### Log records (40_serial R100) -/

@[simp] theorem logRecord_write (dev : Dev) (off : Offset) (v : HalfWord) :
    logRecord dev off (some v) = { dev := dev, off := off, dir := .write, v := some v } := rfl
@[simp] theorem logRecord_read (dev : Dev) (off : Offset) :
    logRecord dev off none = { dev := dev, off := off, dir := .read, v := none } := rfl

/-- A log record carries data exactly when it is of a write. -/
theorem logRecord_data (dev : Dev) (off : Offset) (v : Option HalfWord) :
    (logRecord dev off v).v.isSome = true ↔ (logRecord dev off v).dir = .write := by
  cases v <;> simp

/-- An undefined access is an ignored write where data is given. -/
@[simp] theorem undefinedAccess_write (dev : Dev) (off : Offset) (z : Size) (v : HalfWord) (s : State) :
    undefinedAccess dev off z (some v) s = ignoredWrite dev off v s := rfl

/-- An undefined access is an ignored read where none is. -/
@[simp] theorem undefinedAccess_read (dev : Dev) (off : Offset) (z : Size) (s : State) :
    undefinedAccess dev off z none s = ignoredRead dev off z s := rfl

/-! ### Read values (30_encoding R80) -/

@[simp] theorem zeroValue_one : zeroValue (.wrong .one) = .one 0#8 := rfl
@[simp] theorem zeroValue_two : zeroValue .two = .two 0x0000#16 := rfl
@[simp] theorem zeroValue_four : zeroValue (.wrong .four) = .four 0#32 := rfl
@[simp] theorem zeroValue_eight : zeroValue (.wrong .eight) = .eight 0#64 := rfl

@[simp] theorem readBytes_one (v : BitVec 8) : readBytes (.one v) = 1 := rfl
@[simp] theorem readBytes_two (v : HalfWord) : readBytes (.two v) = 2 := rfl
@[simp] theorem readBytes_four (v : BitVec 32) : readBytes (.four v) = 4 := rfl
@[simp] theorem readBytes_eight (v : BitVec 64) : readBytes (.eight v) = 8 := rfl

/-- The width field of a key gives the width of the value a read of it returns. -/
theorem readBytes_zeroValue (z : Size) : readBytes (zeroValue z) = 2 ^ (sizeBits z).toNat := by
  rcases z with _ | (_ | _ | _) <;> rfl

/-- A byte read through a 16-bit register is the low byte of the value read. -/
@[simp] theorem lowByte_zextByte (b : Byte) : lowByte (.two (zextByte b)) = b := by
  revert b; decide

/-! ### Pending bits (41_aggregator) -/

/-- The two forms of write-1-to-clear agree (41_aggregator R132). -/
theorem clear_intersection (p m : LineMask) : p &&& ~~~(p &&& m) = p &&& ~~~m := by
  revert p m; decide

/-- The pending mask after a write, bit by bit, under the event mode. -/
theorem pendingAfterWrite_event (a p m : LineMask) : pendingAfterWrite .event a p m = p &&& ~~~m :=
  clear_intersection p m

/-- Bit `j` of line `i`'s mask. -/
theorem lineBit_getLsbD (i j : Line) : (lineBit i).getLsbD j.toNat = decide (j = i) := by
  revert i j; decide

/-! ### A step -/

/-- What an access of a wrong width can do: refused outside the windows, a fault, or an undefined-offset access. -/
theorem execBadWidth_cases (z : WrongSize) (a : Addr) (wd : Option Data) (s : State) :
    (route s.cfg.overlapWinner a = none ∧
      execBadWidth z a wd s = .refused (.notThisBlock (.access (accessKey (.wrong z) wd.isSome a)))) ∨
    (∃ dev off, route s.cfg.overlapWinner a = some (dev, off) ∧ s.cfg.badWidthPolicy = .fault ∧
      execBadWidth z a wd s = .fault (.badWidth (accessKey (.wrong z) wd.isSome a))) ∨
    (∃ dev off, route s.cfg.overlapWinner a = some (dev, off) ∧ s.cfg.badWidthPolicy = .ignore ∧
      execBadWidth z a wd s = .next (undefinedAccess dev off (.wrong z) (wd.map deviceData) (startStep s))) := by
  unfold execBadWidth
  cases hr : route s.cfg.overlapWinner a with
  | none => exact .inl ⟨rfl, rfl⟩
  | some r =>
    cases hp : s.cfg.badWidthPolicy with
    | fault => exact .inr (.inl ⟨r.1, r.2, rfl, rfl, rfl⟩)
    | ignore => exact .inr (.inr ⟨r.1, r.2, rfl, rfl, rfl⟩)

/-- What a receive can do: fault on an overrun under that policy, or store the byte (40_serial R111, R113). -/
theorem execEvRx_cases (b : Byte) (s : State) :
    (s.serial.rxReady = true ∧ s.cfg.rxOverrunPolicy = .fault ∧
      execEvRx b s = .fault (.rxOverrun (eventKey 1#4 b))) ∨
    (¬ (s.serial.rxReady = true ∧ s.cfg.rxOverrunPolicy = .fault) ∧
      execEvRx b s = .next (setReceived b (startStep s))) := by
  unfold execEvRx
  split
  · rename_i h; exact .inl ⟨h.1, h.2, rfl⟩
  · rename_i h; exact .inr ⟨h, rfl⟩

/-- What a lower can do: assert the output line, under that setting, or not (41_aggregator R136). -/
theorem execEvLower_cases (i : Line) (s : State) :
    (s.cfg.aggAssertOnLower = true ∧
      execEvLower i s = .next (emit (.assertLine .aggOut) (driveLine i false (startStep s)))) ∨
    (s.cfg.aggAssertOnLower = false ∧ execEvLower i s = .next (driveLine i false (startStep s))) := by
  unfold execEvLower
  cases h : s.cfg.aggAssertOnLower
  · exact .inr ⟨rfl, rfl⟩
  · exact .inl ⟨rfl, rfl⟩

/-- Taking the next operation: none from an empty schedule, else the head, which leaves the schedule. -/
theorem takeInput_cases (s : State) :
    (s.schedule = [] ∧ takeInput s = none) ∨
    (∃ x rest, s.schedule = x :: rest ∧ takeInput s = some (x, { s with schedule := rest })) := by
  unfold takeInput
  cases h : s.schedule with
  | nil => exact .inl ⟨rfl, rfl⟩
  | cons x rest => exact .inr ⟨x, rest, rfl, rfl⟩

/-- What a step that gives a next state did: waited with an empty schedule, or ran the operation its head decodes to. -/
theorem step_next_cases {s t : State} (h : step s = .next t) :
    (s.schedule = [] ∧ t = s) ∨
    (∃ x rest i, s.schedule = x :: rest ∧ decode s.cfg.overlapWinner x = .instr i ∧
      exec i { s with schedule := rest } = .next t) := by
  unfold step at h
  obtain ⟨hs, ht⟩ | ⟨x, rest, hs, ht⟩ := takeInput_cases s
  · rw [ht] at h
    exact .inl ⟨hs, by simpa using h.symm⟩
  · rw [ht] at h
    cases hd : decode s.cfg.overlapWinner x with
    | instr i => exact .inr ⟨x, rest, i, hs, hd, by simpa [hd] using h⟩
    | rejected r => simp [hd] at h

end Sys2Proof.Machine
end

