-- ==== Sys2Proof/Laws/PerInstr.lean ====
section
/-! SUPPORT. The family ReservedClear, per operation: the key that encodes an operation is an access key or an event key with
every reserved bit 0 (30_encoding R80, R84). -/

namespace Sys2Proof.Laws.ReservedClear

open Sys2Proof

/-- Every reserved bit of the operation's key is 0. -/
def Statement (i : Instr) : Prop :=
  match encode i with
  | .access k _ => keyReserved k = false
  | .event k => eventReserved k = 0#4
  | .fetch _ => False

theorem rxreadyRd : Statement .rxreadyRd := keyReserved_accessKey _ _ _
theorem rxreadyWr (v : HalfWord) : Statement (.rxreadyWr v) := keyReserved_accessKey _ _ _
theorem txreadyRd : Statement .txreadyRd := keyReserved_accessKey _ _ _
theorem txreadyWr (v : HalfWord) : Statement (.txreadyWr v) := keyReserved_accessKey _ _ _
theorem rxbyteRd : Statement .rxbyteRd := keyReserved_accessKey _ _ _
theorem rxbyteWr (v : HalfWord) : Statement (.rxbyteWr v) := keyReserved_accessKey _ _ _
theorem txbyteRd : Statement .txbyteRd := keyReserved_accessKey _ _ _
theorem txbyteWr (v : HalfWord) : Statement (.txbyteWr v) := keyReserved_accessKey _ _ _
theorem serialUndefRd (off : Offset) : Statement (.serialUndefRd off) := keyReserved_accessKey _ _ _
theorem serialUndefWr (off : Offset) (v : HalfWord) : Statement (.serialUndefWr off v) := keyReserved_accessKey _ _ _
theorem pendingRd : Statement .pendingRd := keyReserved_accessKey _ _ _
theorem pendingWr (v : HalfWord) : Statement (.pendingWr v) := keyReserved_accessKey _ _ _
theorem aggUndefRd : Statement .aggUndefRd := keyReserved_accessKey _ _ _
theorem aggUndefWr (v : HalfWord) : Statement (.aggUndefWr v) := keyReserved_accessKey _ _ _
theorem badWidth (z : WrongSize) (addr : Addr) (wdata : Option Data) : Statement (.badWidth z addr wdata) := by
  cases wdata <;> exact keyReserved_accessKey _ _ _
theorem evRx (b : Byte) : Statement (.evRx b) := eventReserved_eventKey _ _
theorem evRaise (i : Line) : Statement (.evRaise i) := eventReserved_eventKey _ _
theorem evLower (i : Line) : Statement (.evLower i) := eventReserved_eventKey _ _
theorem evExpire : Statement .evExpire := eventReserved_eventKey _ _
theorem evReset : Statement .evReset := eventReserved_eventKey _ _

end Sys2Proof.Laws.ReservedClear
end

