-- ==== Sys2Proof/Tests/Slice0.lean ====
section
/-! SUPPORT. The model's own tests. Expected results are the vectors of 95_test_vectors.md (V<n>, cases A to E), the keys of
30_encoding R81, R84 and R85, and hand calculation from the rules; then a witness for the hypotheses of each statement. -/

namespace Sys2Proof.Tests

open Sys2Proof Sys2Proof.Config Sys2Proof.Machine

/-! ### Decoding: one word per constructor, written out from 30_encoding R80, R81, R84, R85 -/

theorem test_decode_rxreadyRd : decode .aggregator (.access 0x4F0000008#36 0#64) = .instr .rxreadyRd := by decide
theorem test_decode_rxreadyWr :
    decode .aggregator (.access 0x5F0000008#36 0xABCD#64) = .instr (.rxreadyWr 0xABCD#16) := by decide
theorem test_decode_txreadyRd : decode .aggregator (.access 0x4F000000A#36 0#64) = .instr .txreadyRd := by decide
theorem test_decode_txreadyWr :
    decode .aggregator (.access 0x5F000000A#36 0x1#64) = .instr (.txreadyWr 1#16) := by decide
theorem test_decode_rxbyteRd : decode .aggregator (.access 0x4F000000C#36 0#64) = .instr .rxbyteRd := by decide
theorem test_decode_rxbyteWr :
    decode .aggregator (.access 0x5F000000C#36 0x41#64) = .instr (.rxbyteWr 0x41#16) := by decide
theorem test_decode_txbyteRd : decode .aggregator (.access 0x4F000000E#36 0#64) = .instr .txbyteRd := by decide
/-- The key field by field: sz = 01, res = 0, W = 1, addr = 0xF000000E. -/
theorem test_decode_txbyteWr_by_fields :
    decode .aggregator (.access (0b01#2 ++ 0b0#1 ++ 0b1#1 ++ 0xF000000E#32) 0x1241#64) =
      .instr (.txbyteWr 0x1241#16) := by decide
/-- V12: offset 15, the last of the serial window. -/
theorem test_decode_serialUndefRd :
    decode .aggregator (.access 0x4F0000017#36 0#64) = .instr (.serialUndefRd 15#4) := by decide
/-- V38: offset 7. -/
theorem test_decode_serialUndefWr :
    decode .aggregator (.access 0x5F000000F#36 0x41#64) = .instr (.serialUndefWr 7#4 0x41#16) := by decide
theorem test_decode_pendingRd : decode .aggregator (.access 0x4F0000010#36 0#64) = .instr .pendingRd := by decide
theorem test_decode_pendingWr :
    decode .aggregator (.access 0x5F0000010#36 0x4#64) = .instr (.pendingWr 4#16) := by decide
theorem test_decode_aggUndefRd : decode .aggregator (.access 0x4F0000011#36 0#64) = .instr .aggUndefRd := by decide
theorem test_decode_aggUndefWr :
    decode .aggregator (.access 0x5F0000011#36 0x1#64) = .instr (.aggUndefWr 1#16) := by decide
/-- V10: the same key under `OVERLAP_WINNER = serial`. -/
theorem test_decode_overlap_serial :
    decode .serial (.access 0x4F0000010#36 0#64) = .instr (.serialUndefRd 8#4) := by decide
/-- V2, V5. -/
theorem test_decode_badWidth_one :
    decode .aggregator (.access 0x0F0000008#36 0#64) = .instr (.badWidth .one 0xF0000008#32 none) := by decide
theorem test_decode_badWidth_eight :
    decode .aggregator (.access 0xDF0000010#36 0x1#64) = .instr (.badWidth .eight 0xF0000010#32 (some 1#64)) := by
  decide
theorem test_decode_evRx : decode .aggregator (.event 0x10FF#16) = .instr (.evRx 0xFF#8) := by decide
/-- The key field by field: kind = 0x2, res = 0, payload = 000000ii with line 3. -/
theorem test_decode_evRaise_by_fields :
    decode .aggregator (.event (0x2#4 ++ 0x0#4 ++ 0b00000011#8)) = .instr (.evRaise 3#2) := by decide
theorem test_decode_evLower : decode .aggregator (.event 0x3003#16) = .instr (.evLower 3#2) := by decide
theorem test_decode_evExpire : decode .aggregator (.event 0x4000#16) = .instr .evExpire := by decide
theorem test_decode_evReset : decode .aggregator (.event 0x5000#16) = .instr .evReset := by decide

/-! ### What the decoder refuses: V6, V7, V8, V13, V46, V59a, V72, V74 -/

theorem test_reject_above_window : decode .aggregator (.access 0x4F0000018#36 0#64) = .rejected .notThisBlock := by
  decide
theorem test_reject_below_window : decode .aggregator (.access 0x4F0000006#36 0#64) = .rejected .notThisBlock := by
  decide
theorem test_reject_reserved_access_bit :
    decode .aggregator (.access 0x6F0000008#36 0#64) = .rejected .reservedKeyBit := by decide
theorem test_reject_fetch : decode .aggregator (.fetch 0xF0000008#32) = .rejected .fetchFromMmio := by decide
theorem test_reject_reserved_event_bits : decode .aggregator (.event 0x1158#16) = .rejected .reservedKeyBit := by decide
theorem test_reject_line_four : decode .aggregator (.event 0x2004#16) = .rejected .noSuchLine := by decide
theorem test_reject_expire_payload : decode .aggregator (.event 0x4001#16) = .rejected .reservedKeyBit := by decide
theorem test_reject_kind : decode .aggregator (.event 0x7000#16) = .rejected .reservedEvent := by decide

/-! ### WellFormed: an ill-formed operation or input for each check, refused -/

theorem test_wf_refuses_defined_offset : (Instr.serialUndefRd 4#4).wf .serial = false := by decide
theorem test_wf_refuses_overlap_offset : (Instr.serialUndefWr 8#4 0#16).wf .aggregator = false := by decide
theorem test_wf_refuses_pending_where_serial_wins : Instr.pendingRd.wf .serial = false := by decide
theorem test_wf_refuses_pendingWr_where_serial_wins : (Instr.pendingWr 0#16).wf .serial = false := by decide
theorem test_wf_refuses_aggUndef_where_serial_wins :
    Instr.aggUndefRd.wf .serial = false ∧ (Instr.aggUndefWr 0#16).wf .serial = false := by decide
theorem test_wf_refuses_address_outside : (Instr.badWidth .one 0xF0000018#32 none).wf .aggregator = false := by decide
theorem test_wf_refuses_wide_data :
    (Instr.badWidth .one 0xF0000008#32 (some 0x100#64)).wf .aggregator = false := by decide
theorem test_wf_refuses_data_of_a_read : (Input.access 0x4F0000008#36 1#64).wf = false := by decide
theorem test_wf_refuses_wide_write : (Input.access 0x5F0000008#36 0x10000#64).wf = false := by decide

/-! ### Steps on small states -/

/-- A state with the given serial fields and pending mask, everything else as after reset. -/
def small (rxReady : Bool) (rxByte : Byte) (pending : LineMask) : State :=
  { State.reset with
    serial := { rxReady := rxReady, rxByte := rxByte, lastTxByte := 0x00#8 }
    agg := { pending := pending } }

/-- The next state of a step that takes input `x`. -/
def after (s : State) (x : Input) : Option State := nextState? (step { s with schedule := [x] })

/-- `small` under other settings. -/
def smallWith (p : Params) (rxReady : Bool) (pending : LineMask) : State :=
  { small rxReady 0x58#8 pending with cfg := p }

/-- V20. -/
theorem test_rxready_reads_one :
    (after (small true 0x7F#8 0#4) (.access 0x4F0000008#36 0#64)).map (·.out.ret) = some (some (.two 0x0001#16)) := by decide
/-- V30. -/
theorem test_rxready_write_keeps_flag :
    (after (small true 0x58#8 0#4) (.access 0x5F0000008#36 0#64)).map (fun t => (t.serial.rxReady, t.env.log.length)) =
      some (true, 1) := by decide
/-- V21. -/
theorem test_txready_reads_one :
    (after State.reset (.access 0x4F000000A#36 0#64)).map (·.out.ret) = some (some (.two 0x0001#16)) := by decide
/-- V32. -/
theorem test_txready_write_logs :
    (after State.reset (.access 0x5F000000A#36 0#64)).map (·.env.log) =
      some [{ dev := .serial, off := 2#4, dir := .write, v := some 0#16 }] := by decide
/-- V22: no sign extension, the flag cleared, one notification. -/
theorem test_rxbyte_read :
    (after (small true 0xFF#8 0#4) (.access 0x4F000000C#36 0#64)).map
      (fun t => (t.out.ret, t.serial.rxReady, t.env.accepts)) = some (some (.two 0x00FF#16), false, 1) := by decide
/-- V24: a stale byte. -/
theorem test_rxbyte_read_empty :
    (after (small false 0x58#8 0#4) (.access 0x4F000000C#36 0#64)).map (fun t => (t.out.ret, t.env.accepts)) =
      some (some (.two 0x0058#16), 1) := by decide
/-- V33. -/
theorem test_rxbyte_write_keeps_byte :
    (after (small false 0x58#8 0#4) (.access 0x5F000000C#36 0x41#64)).map (fun t => (t.serial.rxByte, t.env.accepts)) =
      some (0x58#8, 0) := by decide
/-- V25. -/
theorem test_txbyte_reads_zero :
    (after State.reset (.access 0x4F000000E#36 0#64)).map (·.out.ret) = some (some (.two 0x0000#16)) := by decide
/-- V36. -/
theorem test_txbyte_write_low_byte :
    (after State.reset (.access 0x5F000000E#36 0x1241#64)).map (fun t => (t.env.tx, t.serial.lastTxByte)) =
      some ([0x41#8], 0x00#8) := by decide
/-- V26. -/
theorem test_odd_offset_read_has_no_side_effect :
    (after (small true 0x58#8 0#4) (.access 0x4F000000D#36 0#64)).map
      (fun t => (t.out.ret, t.serial.rxReady, t.env.accepts, t.env.log.length)) =
      some (some (.two 0x0000#16), true, 0, 1) := by decide
/-- V38. -/
theorem test_undef_write_sends_nothing :
    (after State.reset (.access 0x5F000000F#36 0x41#64)).map (fun t => (t.env.tx, t.env.log.length)) = some ([], 1) := by
  decide
/-- V41. -/
theorem test_receive :
    (after State.reset (.event 0x10FF#16)).map (·.serial) =
      some { rxReady := true, rxByte := 0xFF#8, lastTxByte := 0x00#8 } := by decide
/-- V43. -/
theorem test_overrun_faults_under_its_policy :
    fault? (exec (.evRx 0x59#8) (smallWith { Params.default with rxOverrunPolicy := .fault } true 0#4)) =
      some (.rxOverrun 0x1059#16) := by decide
/-- V50. -/
theorem test_pending_read :
    (after (small false 0#8 0b1010#4) (.access 0x4F0000010#36 0#64)).map (fun t => (t.out.ret, t.env.aggAsserts)) =
      some (some (.two 0x000A#16), 0) := by decide
/-- V53. -/
theorem test_pending_write :
    (after (small false 0#8 0b1010#4) (.access 0x5F0000010#36 0x3#64)).map
      (fun t => (t.agg.pending, t.env.aggOut, t.env.aggAsserts)) = some (0b1000#4, true, 1) := by decide
/-- V59b: the line still active sets its bit again. -/
theorem test_pending_write_level :
    (nextState? (exec (.pendingWr 4#16) { smallWith { Params.default with aggInputMode := .level } false 0b0100#4 with
      env := { State.reset.env with aggIn := 0b0100#4 } })).map (·.agg.pending) = some 0b0100#4 := by decide
/-- V58. -/
theorem test_agg_undef_read :
    (after (small false 0#8 0b1111#4) (.access 0x4F0000011#36 0#64)).map
      (fun t => (t.out.ret, t.env.log.length, t.env.aggAsserts)) = some (some (.two 0x0000#16), 1, 0) := by decide
/-- V59. -/
theorem test_agg_undef_write :
    (after (small false 0#8 0b0001#4) (.access 0x5F0000011#36 0x1#64)).map
      (fun t => (t.agg.pending, t.env.log.length, t.env.aggAsserts)) = some (0b0001#4, 1, 0) := by decide
/-- V56. -/
theorem test_raise_again_asserts :
    (after (small false 0#8 0b0001#4) (.event 0x2000#16)).map (fun t => (t.agg.pending, t.env.aggAsserts)) =
      some (0b0001#4, 1) := by decide
/-- V57. -/
theorem test_lower_keeps_bit :
    (after (small false 0#8 0b1000#4) (.event 0x3003#16)).map (fun t => (t.agg.pending, t.env.aggAsserts)) =
      some (0b1000#4, 0) := by decide
/-- V3: the side effect of RXBYTE does not happen. -/
theorem test_bad_width_faults :
    fault? (step { State.reset with schedule := [.access 0x8F000000C#36 0#64] }) = some (.badWidth 0x8F000000C#36) := by
  decide
/-- R55's alternative: a 1-byte read of PENDING's address is an undefined access of the aggregator, and returns 1 byte
(R80). -/
theorem test_bad_width_ignored :
    (nextState? (exec (.badWidth .one 0xF0000010#32 none)
      (smallWith { Params.default with badWidthPolicy := .ignore } true 0b0001#4))).map
      (fun t => (t.out.ret, t.env.log)) =
      some (some (.one 0x00#8), [{ dev := .agg, off := 0#4, dir := .read, v := none }]) := by decide
/-- V70. -/
theorem test_expire :
    (after State.reset (.event 0x4000#16)).map (fun t => (t.env.timerAsserts, t.serial, t.agg)) =
      some (1, State.reset.serial, State.reset.agg) := by decide
/-- A state in use: V73, with an empty log. -/
def inUse : State :=
  { small true 0x58#8 0b1001#4 with
    env := { tx := [0x41#8], accepts := 2, log := [], aggIn := 0#4, aggOut := true, aggAsserts := 5, timerAsserts := 4 }
    cpuResetPc := 0x1234#32 }

/-- V73: the devices are zeroed; case E: the CPU's pc. -/
theorem test_reset_zeroes :
    (after inUse (.event 0x5000#16)).map (fun t => (t.serial, t.agg, t.cpuResetPc)) =
      some (State.reset.serial, State.reset.agg, 0x00001000#32) := by decide
/-- V73: the environment record stays. -/
theorem test_reset_keeps_record : (after inUse (.event 0x5000#16)).map (·.env) = some inUse.env := by decide
/-- V6: a refusal names its key. -/
theorem test_refusal_names_its_key :
    refusal? (step { State.reset with schedule := [.access 0x4F0000018#36 0#64] }) =
      some (.notThisBlock (.access 0x4F0000018#36)) := by decide
/-- The host's table word runs as the next step. -/
theorem test_withFetchWord :
    decodeTableWord 16 0x2002 = some (.evRaise 2#2) ∧
    (nextState? (step (State.reset.withFetchWord 16 0x2002))).map (·.agg.pending) = some 0b0100#4 ∧
    decodeTableWord 40 0x4F0000010 = some .pendingRd := by decide

/-! ### Platform: V60 to V64 -/

/-- The configuration of V60 with a ramdisk of `size` bytes. -/
def v60 (size : Nat) : BootConfig :=
  { BootConfig.default with kernel := some (.loaded 0x30000000#32 0x00012345), initrdSize := some size }

/-- V61: the ramdisk just fits. -/
theorem test_ramdisk_fits :
    (match assemble (v60 0x000ED000) Params.default with
      | .launched s => some (s.boot.bootstrapPC, s.boot.ramdiskAt)
      | .fatal _ => none
      | .refused _ => none) = some (0x30000000#32, some 0x00013000) := by decide
/-- V62. -/
theorem test_ramdisk_too_big : assemble (v60 0x000ED001) Params.default = .fatal .ramdiskDoesNotFit := by decide
/-- V63. -/
theorem test_round_up_aligned : roundUpToPage 0x00013000 = 0x00013000 := by decide
/-- 70_reset R191: the launch state of the default configuration is the state after reset. -/
theorem test_launch_is_reset : assemble BootConfig.default Params.default = .launched State.reset := by decide

/-! ### Witnesses: the hypotheses of each statement are met -/

theorem wit_DecodeOfEncode : (Instr.serialUndefRd 9#4).wf .serial = true ∧ Instr.pendingRd.wf .aggregator = true ∧
    (Instr.badWidth .four 0xF0000017#32 (some 0xFFFFFFFF#64)).wf .aggregator = true := by decide
theorem wit_EncodeOfDecode : (Input.access 0x1F000000E#36 0x41#64).wf = true ∧
    decode .aggregator (.access 0x1F000000E#36 0x41#64) = .instr (.badWidth .one 0xF000000E#32 (some 0x41#64)) := by
  decide
theorem wit_RowsAreDisjoint :
    (∃ r ∈ accessRows, rowMatches .serial 0x4F0000010#36 r = true) ∧ (∃ r ∈ eventRows, rowMatches .serial 0x10FF#16 r = true) :=
  ⟨⟨⟨.serialUndefRd, 0x4F0000010#36, 0xFFFFFFFFE#36, some .serial⟩, by decide, by decide⟩,
    ⟨⟨.evRx, 0x1000#16, 0xFF00#16, none⟩, by decide, by decide⟩⟩
theorem wit_OverlapWinner : decode .serial (.access 0x5F0000011#36 0#64) = .instr (.serialUndefWr 9#4 0#16) := by decide
theorem wit_StepRuns :
    (∃ (s : State) (x : Input) (rest : List Input) (i : Instr),
      s.schedule = x :: rest ∧ decode s.cfg.overlapWinner x = .instr i) ∧
    (∃ (s : State) (x : Input) (rest : List Input) (r : Reject),
      s.schedule = x :: rest ∧ decode s.cfg.overlapWinner x = .rejected r) ∧
    (∃ s : State, s.schedule = []) :=
  ⟨⟨{ State.reset with schedule := [.event 0x4000#16] }, _, _, .evExpire, rfl, by decide⟩,
    ⟨{ State.reset with schedule := [.event 0x7000#16] }, _, _, .reservedEvent, rfl, by decide⟩, State.reset, rfl⟩
/-- Both sides of the windows, at their edges. -/
theorem wit_AccessOutside :
    (0x4F0000007#36).getLsbD 33 = false ∧ ((0x4F0000007#36).extractLsb' 0 32).toNat < 0xF0000008 ∧
    (0xCF0000018#36).getLsbD 33 = false ∧ 0xF0000018 ≤ ((0xCF0000018#36).extractLsb' 0 32).toNat := by decide
/-- One key per clause, at the edges of its range. -/
theorem wit_KeysThatSpellNothing :
    (0x6F0000008#36).getLsbD 33 = true ∧
    (0x1100#16).extractLsb' 8 4 ≠ 0#4 ∧ (0x2104#16).extractLsb' 8 4 ≠ 0#4 ∧ (0x7100#16).extractLsb' 8 4 ≠ 0#4 ∧
    ((0x5001#16).extractLsb' 8 4 = 0#4 ∧ (0x5001#16).extractLsb' 12 4 = 5#4 ∧ (0x5001#16).extractLsb' 0 8 ≠ 0#8) ∧
    ((0x6000#16).extractLsb' 8 4 = 0#4 ∧ 6 ≤ ((0x6000#16).extractLsb' 12 4).toNat) ∧
    ((0x0000#16).extractLsb' 8 4 = 0#4 ∧ (0x0000#16).extractLsb' 12 4 = 0#4) ∧
    ((0x3004#16).extractLsb' 8 4 = 0#4 ∧ (0x3004#16).extractLsb' 12 4 = 3#4 ∧
      4 ≤ ((0x3004#16).extractLsb' 0 8).toNat) := by decide
theorem wit_FetchFromAWindow :
    ∃ (s : State) (rest : List Input), s.schedule = .fetch 0xF0000017#32 :: rest ∧
      0xF0000008 ≤ (0xF0000017#32).toNat ∧ (0xF0000017#32).toNat < 0xF0000018 :=
  ⟨{ State.reset with schedule := [.fetch 0xF0000017#32] }, [], rfl, by decide, by decide⟩
/-- Offset 9 under the serial winner, offset 15 under either. -/
theorem wit_UndefinedSerial :
    (9#4 ≠ 0#4 ∧ 9#4 ≠ 2#4 ∧ 9#4 ≠ 4#4 ∧ 9#4 ≠ 6#4 ∧ (9#4 = 8#4 ∨ 9#4 = 9#4 → OverlapWinner.serial = .serial)) ∧
    (15#4 ≠ 0#4 ∧ 15#4 ≠ 2#4 ∧ 15#4 ≠ 4#4 ∧ 15#4 ≠ 6#4 ∧
      (15#4 = 8#4 ∨ 15#4 = 9#4 → OverlapWinner.aggregator = .serial)) := by decide
theorem wit_Receive :
    ¬ ((small true 0#8 0#4).serial.rxReady = true ∧ (small true 0#8 0#4).cfg.rxOverrunPolicy = .fault) ∧
    ((smallWith { Params.default with rxOverrunPolicy := .fault } true 0#4).serial.rxReady = true ∧
      (smallWith { Params.default with rxOverrunPolicy := .fault } true 0#4).cfg.rxOverrunPolicy = .fault) := by decide
theorem wit_TxbyteReadsZero :
    State.reset.serial.lastTxByte = 0x00#8 ∧
    (∃ t, step { State.reset with schedule := [.access 0x5F000000E#36 0x41#64] } = .next t) ∧
    (∃ t, exec (.txbyteWr 0x41#16) State.reset = .next t) := ⟨rfl, ⟨_, rfl⟩, ⟨_, rfl⟩⟩
theorem wit_StatusFlags :
    ((nextState? (exec (.evRx 1#8) (small false 0#8 0#4))).map (·.serial.rxReady) = some true) ∧
    ((nextState? (exec .rxbyteRd (small true 0#8 0#4))).map (·.serial.rxReady) = some false) ∧
    ((nextState? (exec .evReset (small true 0#8 0b0001#4))).map (fun t => (t.serial.rxReady, t.agg.pending)) =
      some (false, 0#4)) ∧
    ((nextState? (exec (.evRaise 3#2) (small false 0#8 0#4))).map (·.agg.pending) = some 0b1000#4) ∧
    ((nextState? (exec (.pendingWr 8#16) (small false 0#8 0b1000#4))).map (·.agg.pending) = some 0#4) := by decide
theorem wit_FlowControl :
    flowControlled [.evRx 1#8, .rxbyteRd, .rxbyteRd, .evRx 2#8] State.reset ∧
    (∃ t, runInstrs [.evRx 1#8, .rxbyteRd, .rxbyteRd, .evRx 2#8] State.reset = .next t) ∧
    canAccept (small true 0#8 0#4) = false ∧ (small true 0#8 0#4).cfg.rxOverrunPolicy = .overwrite ∧
    (nextState? (exec .rxbyteRd (small true 0#8 0#4))).map canAccept = some true :=
  ⟨⟨rfl, rfl, rfl, rfl, trivial⟩, ⟨_, rfl⟩, rfl, rfl, by decide⟩
theorem wit_PendingBit :
    State.reset.cfg.aggInputMode = .event ∧
    ∃ t, runInstrs [.evRaise 2#2, .pendingWr 8#16] State.reset = .next t ∧ t.agg.pending.getLsbD 2 = true :=
  ⟨rfl, _, rfl, by decide⟩
theorem wit_AggregatorOutput : ∃ t, exec (.evRaise 0#2) State.reset = .next t := ⟨_, rfl⟩
theorem wit_WritingBack :
    ∃ r u, (small false 0#8 0b0001#4).cfg.aggInputMode = .event ∧ exec .pendingRd (small false 0#8 0b0001#4) = .next r ∧
      r.out.ret = some (.two 0x0001#16) ∧ runInstrs ([1#2].map .evRaise) r = .next u := ⟨_, _, rfl, rfl, rfl, rfl⟩
/-- Both ends of the windows; the second under the other policy. -/
theorem wit_WrongWidth :
    State.reset.cfg.badWidthPolicy = .fault ∧
    (smallWith { Params.default with badWidthPolicy := .ignore } true 0#4).cfg.badWidthPolicy = .ignore ∧
    0xF0000008 ≤ (0xF0000008#32).toNat ∧ (0xF0000017#32).toNat ≤ 0xF0000017 := by decide
/-- The ignored access at each device's edge addresses: 0xF000000F is the serial device's, 0xF0000011 the aggregator's. -/
theorem wit_WrongWidthIgnored_devices :
    (nextState? (exec (.badWidth .eight 0xF000000F#32 (some 0x12345#64))
      (smallWith { Params.default with badWidthPolicy := .ignore } true 0#4))).map (·.env.log) =
      some [{ dev := .serial, off := 7#4, dir := .write, v := some 0x2345#16 }] ∧
    (nextState? (exec (.badWidth .one 0xF0000011#32 none)
      (smallWith { Params.default with badWidthPolicy := .ignore } true 0#4))).map (·.env.log) =
      some [{ dev := .agg, off := 1#4, dir := .read, v := none }] := by decide
theorem wit_TimerLine :
    State.reset.cfg.timerLineMode = .pulse ∧
    (∃ t, (smallWith { Params.default with timerLineMode := .hold } false 0#4).cfg.timerLineMode = .hold ∧
      exec .evExpire (smallWith { Params.default with timerLineMode := .hold } false 0#4) = .next t ∧
      cpuIrqInput t 1 = some true ∧ ∃ u, exec .evReset t = .next u) :=
  ⟨rfl, _, rfl, rfl, rfl, _, rfl⟩
theorem wit_LoggedAndIgnored :
    ignoredRecord (.aggUndefWr 1#16) = some { dev := .agg, off := 1#4, dir := .write, v := some 1#16 } ∧
    ignoredRecord (.serialUndefRd 1#4) = some { dev := .serial, off := 1#4, dir := .read, v := none } := by decide
/-- A 2-byte read and write, an 8-byte read that completes under the other policy, and an event. -/
theorem wit_ReadsReturnTheirAccessWidth :
    (after State.reset (.access 0x4F0000008#36 0#64)).map (·.out.ret.map readBytes) = some (some 2) ∧
    (after State.reset (.access 0x5F0000008#36 0#64)).map (·.out.ret.map readBytes) = some none ∧
    (after (smallWith { Params.default with badWidthPolicy := .ignore } true 0#4) (.access 0xCF0000017#36 0#64)).map
      (·.out.ret.map readBytes) = some (some 8) ∧
    (after State.reset (.event 0x4000#16)).map (·.out.ret) = some none := by decide
theorem wit_RepeatedAccesses :
    (∃ t, exec .pendingRd State.reset = .next t) ∧ (∃ t, exec .rxbyteRd State.reset = .next t) ∧
    (∃ t, exec (.txbyteWr 1#16) State.reset = .next t) ∧ (∃ t, exec (.pendingWr 1#16) State.reset = .next t) :=
  ⟨⟨_, rfl⟩, ⟨_, rfl⟩, ⟨_, rfl⟩, ⟨_, rfl⟩⟩
theorem wit_EnvironmentRecord : ∃ t, exec .rxbyteRd State.reset = .next t ∧ State.reset.cfg.aggInputMode = .event :=
  ⟨_, rfl, rfl⟩
theorem wit_NoInterference :
    (isAggOp .rxbyteRd = false ∧ (small true 1#8 0#4).serial = (small true 1#8 0b1111#4).serial ∧
      (small true 1#8 0#4).cfg = (small true 1#8 0b1111#4).cfg ∧ ∃ t, exec .rxbyteRd (small true 1#8 0#4) = .next t) ∧
    (isAggOp .pendingRd = true ∧ (small true 1#8 0b1#4).agg = (small false 2#8 0b1#4).agg ∧
      (small true 1#8 0b1#4).env.aggIn = (small false 2#8 0b1#4).env.aggIn ∧
      (small true 1#8 0b1#4).cfg = (small false 2#8 0b1#4).cfg ∧ ∃ t, exec .pendingRd (small true 1#8 0b1#4) = .next t) :=
  ⟨⟨rfl, rfl, rfl, _, rfl⟩, ⟨rfl, rfl, rfl, rfl, _, rfl⟩⟩
theorem wit_OperationsFault : (Instr.badWidth .one 0xF0000008#32 none).wf State.reset.cfg.overlapWinner = true ∧
    (Instr.evRx 0#8).wf State.reset.cfg.overlapWinner = true := by decide
theorem wit_StepKeeps :
    BlockInv { State.reset with schedule := [.event 0x2001#16] } ∧
    ∃ t, step { State.reset with schedule := [.event 0x2001#16] } = .next t :=
  ⟨⟨rfl, by decide, fun _ => rfl, rfl, by decide⟩, _, rfl⟩
theorem wit_RunningASchedule :
    (∀ i ∈ [Instr.evRx 1#8, .rxbyteRd], i.wf State.reset.cfg.overlapWinner = true) ∧
    ({ State.reset with schedule := [Instr.evRx 1#8, .rxbyteRd].map encode ++ [.event 0x7000#16] } : State).schedule =
      [Instr.evRx 1#8, .rxbyteRd].map encode ++ [.event 0x7000#16] := ⟨by decide, rfl⟩
theorem wit_InterruptLines : isAggOp (.evRaise 1#2) = true ∧ ∃ t, exec (.evRaise 1#2) State.reset = .next t :=
  ⟨rfl, _, rfl⟩
/-- A launch for each alternative: no kernel, a kernel alone, a kernel and a ramdisk. -/
theorem wit_Assembly :
    (∃ s, assemble BootConfig.default Params.default = .launched s) ∧
    (∃ s, assemble { BootConfig.default with kernel := some (.loaded 0x30000000#32 1) } Params.default = .launched s) ∧
    (∃ s, assemble (v60 0x1000) Params.default = .launched s) := ⟨⟨_, rfl⟩, ⟨_, rfl⟩, ⟨_, rfl⟩⟩
/-- The premises of a launch, the ramdisk at the largest size that fits. -/
theorem wit_AssemblyPremises :
    (BootConfig.default.cpuResolves = true ∧ BootConfig.default.ramSize ≤ 0xC0001008 ∧ BootConfig.default.kernel = none) ∧
    ((v60 0x000ED000).cpuResolves = true ∧ (v60 0x000ED000).ramSize ≤ 0xC0001008 ∧
      (v60 0x000ED000).kernel = some (.loaded 0x30000000#32 0x00012345) ∧ (v60 0x000ED000).initrdSize = some 0x000ED000 ∧
      (0x00012345 + 4095) / 4096 * 4096 + 0x000ED000 ≤ (v60 0x000ED000).ramSize) ∧
    ({ v60 0 with initrdSize := none }.kernel = some (.loaded 0x30000000#32 0x00012345) ∧
      { v60 0 with initrdSize := none }.initrdSize = none) := by decide
theorem wit_FatalConfigurations :
    ({ BootConfig.default with cpuResolves := false } : BootConfig).cpuResolves = false ∧
    (BootConfig.default.cpuResolves = true ∧
      0xC0001008 < ({ BootConfig.default with ramSize := 0xC0001009 } : BootConfig).ramSize) ∧
    ((v60 0x000ED001).cpuResolves = true ∧ (v60 0x000ED001).ramSize ≤ 0xC0001008 ∧
      (v60 0x000ED001).kernel = some (.loaded 0x30000000#32 0x00012345) ∧ (v60 0x000ED001).initrdSize = some 0x000ED001 ∧
      (v60 0x000ED001).ramSize < (0x00012345 + 4095) / 4096 * 4096 + 0x000ED001) := by decide
theorem wit_FatalKernels :
    ({ BootConfig.default with kernel := some .missing } : BootConfig).kernel = some .missing ∧
    ({ BootConfig.default with kernel := some .zeroSize } : BootConfig).kernel = some .zeroSize ∧
    ({ BootConfig.default with kernel := some .unreadable } : BootConfig).kernel = some .unreadable := by decide
/-- The largest external RAM ends right below the windows. -/
theorem wit_MachineMap : regionOf 0xC0001008 0xF0000007#32 = some .extram ∧
    regionOf 0xC0001008 0xF0000008#32 = some .mmio ∧ regionOf 0 0x00000FFF#32 = none := by decide

end Sys2Proof.Tests
end

/-! ## The serial device (40_serial): what its operations do, and the statements of that family -/

namespace Sys2Proof.Machine

open Sys2Proof.Config

/-! ### The state after a whole operation, field by field -/

/-- A read that only returns a value. -/
theorem returnValue_startStep (v : ReadValue) (s : State) :
    returnValue v (startStep s) = { s with out := { ret := some v, events := [] } } := rfl

/-- A logged-and-ignored write (60_exceptions R161). -/
theorem ignoredWrite_startStep (dev : Dev) (off : Offset) (v : HalfWord) (s : State) :
    ignoredWrite dev off v (startStep s) =
      { s with
        env := { s.env with log := s.env.log ++ [{ dev := dev, off := off, dir := .write, v := some v }] }
        out := { ret := none, events := [.log { dev := dev, off := off, dir := .write, v := some v }] } } := rfl

/-- A delivery that is accepted (40_serial R111). -/
theorem setReceived_startStep (b : Byte) (s : State) :
    setReceived b (startStep s) =
      { s with
        serial := { rxReady := true, rxByte := b, lastTxByte := s.serial.lastTxByte }
        out := { ret := none, events := [] } } := rfl

/-! ### The meaning of each operation as `exec` dispatches it

The three that branch are given by name: `execBadWidth_cases`, `execEvRx_cases` and `execEvLower_cases` say what they do. -/

section

variable (s : State)

@[simp] theorem exec_rxreadyRd :
    exec .rxreadyRd s = .next (returnValue (.two (zextFlag s.serial.rxReady)) (startStep s)) := rfl
@[simp] theorem exec_rxreadyWr (v : HalfWord) :
    exec (.rxreadyWr v) s = .next (ignoredWrite .serial 0#4 v (startStep s)) := rfl
@[simp] theorem exec_txreadyRd : exec .txreadyRd s = .next (returnValue (.two 0x0001#16) (startStep s)) := rfl
@[simp] theorem exec_txreadyWr (v : HalfWord) :
    exec (.txreadyWr v) s = .next (ignoredWrite .serial 2#4 v (startStep s)) := rfl
@[simp] theorem exec_rxbyteRd :
    exec .rxbyteRd s =
      .next (emit .acceptInput (clearRxReady (returnValue (.two (zextByte s.serial.rxByte)) (startStep s)))) := rfl
@[simp] theorem exec_rxbyteWr (v : HalfWord) :
    exec (.rxbyteWr v) s = .next (ignoredWrite .serial 4#4 v (startStep s)) := rfl
@[simp] theorem exec_txbyteRd :
    exec .txbyteRd s = .next (returnValue (.two (zextByte s.serial.lastTxByte)) (startStep s)) := rfl
@[simp] theorem exec_txbyteWr (v : HalfWord) :
    exec (.txbyteWr v) s = .next (emit (.tx (txOperand v)) (startStep s)) := rfl
@[simp] theorem exec_serialUndefRd (off : Offset) :
    exec (.serialUndefRd off) s = .next (ignoredRead .serial off .two (startStep s)) := rfl
@[simp] theorem exec_serialUndefWr (off : Offset) (v : HalfWord) :
    exec (.serialUndefWr off v) s = .next (ignoredWrite .serial off v (startStep s)) := rfl
@[simp] theorem exec_pendingRd :
    exec .pendingRd s = .next (returnValue (.two (zextMask s.agg.pending)) (startStep s)) := rfl
@[simp] theorem exec_pendingWr (v : HalfWord) :
    exec (.pendingWr v) s = .next (emit (.assertLine .aggOut) (ackPending (ackOperand v) (startStep s))) := rfl
@[simp] theorem exec_aggUndefRd : exec .aggUndefRd s = .next (ignoredRead .agg 1#4 .two (startStep s)) := rfl
@[simp] theorem exec_aggUndefWr (v : HalfWord) :
    exec (.aggUndefWr v) s = .next (ignoredWrite .agg 1#4 v (startStep s)) := rfl
@[simp] theorem exec_badWidth (z : WrongSize) (a : Addr) (wdata : Option Data) :
    exec (.badWidth z a wdata) s = execBadWidth z a wdata s := rfl
@[simp] theorem exec_evRx (b : Byte) : exec (.evRx b) s = execEvRx b s := rfl
@[simp] theorem exec_evRaise (i : Line) :
    exec (.evRaise i) s = .next (emit (.assertLine .aggOut) (driveLine i true (setPending i (startStep s)))) := rfl
@[simp] theorem exec_evLower (i : Line) : exec (.evLower i) s = execEvLower i s := rfl
@[simp] theorem exec_evExpire : exec .evExpire s = .next (emit (.assertLine .timerOut) (startStep s)) := rfl
@[simp] theorem exec_evReset : exec .evReset s = .next (machineReset (startStep s)) := rfl

/-- A receive stores the byte, unless it overruns under that policy (40_serial R111). -/
theorem exec_evRx_stores {b : Byte} (h : ¬ (s.serial.rxReady = true ∧ s.cfg.rxOverrunPolicy = .fault)) :
    exec (.evRx b) s = .next (setReceived b (startStep s)) := if_neg h

/-- A receive that overruns under that policy faults with its event key (40_serial R113). -/
theorem exec_evRx_overruns {b : Byte} (hr : s.serial.rxReady = true) (hp : s.cfg.rxOverrunPolicy = .fault) :
    exec (.evRx b) s = .fault (.rxOverrun (eventKey 1#4 b)) := if_pos ⟨hr, hp⟩

end

/-! ### Read values of the serial registers (30_encoding R83) -/

/-- The value of a flag is exactly 0x0000 or 0x0001. -/
theorem zextFlag_eq_ite (b : Bool) : zextFlag b = if b then 0x0001#16 else 0x0000#16 := by
  cases b <;> rfl

/-- The value of a byte is the byte below eight zero bits. -/
theorem zextByte_eq_append (b : Byte) : zextByte b = 0#8 ++ b :=
  BitVec.setWidth_eq_append (by decide)

/-- The values an RXREADY read can return: exactly the flag's (40_serial R101). -/
theorem rxreadyRd_returns_iff (s : State) (v : HalfWord) :
    (∃ t, exec .rxreadyRd s = .next t ∧ t.out.ret = some (.two v)) ↔
      v = if s.serial.rxReady then 0x0001#16 else 0x0000#16 := by
  rw [← zextFlag_eq_ite]
  constructor
  · rintro ⟨t, ht, hv⟩
    obtain rfl := Host.Outcome.next.inj ht
    simpa using hv.symm
  · rintro rfl
    exact ⟨_, exec_rxreadyRd s, rfl⟩

/-- A TXBYTE read returns `lastTxByte` below eight zero bits and changes nothing else (40_serial R107). -/
theorem txbyteRd_returns_lastTxByte (s : State) :
    exec .txbyteRd s = .next { s with out := { ret := some (.two (0#8 ++ s.serial.lastTxByte)), events := [] } } := by
  rw [exec_txbyteRd, zextByte_eq_append, returnValue_startStep]

/-! ### Decoding of the serial keys (30_encoding R81, R85) -/

/-- A serial offset is routed to the serial device, 8 and 9 only where it wins the overlap (20_memory R51). -/
theorem route_serialAddr (w : OverlapWinner) (off : Offset) (h : off = 8#4 ∨ off = 9#4 → w = .serial) :
    route w (serialAddr off) = some (.serial, off) := by
  revert off
  cases w <;> decide

/-- A 2-byte access of a serial offset decodes to the operation of that offset, the data cut to 16 bits. -/
theorem decode_serialAccess (w : OverlapWinner) (write : Bool) (off : Offset) (d : Data)
    (h : off = 8#4 ∨ off = 9#4 → w = .serial) :
    decode w (.access (accessKey .two write (serialAddr off)) d) = .instr (serialInstr off write (deviceData d)) := by
  simp [decode, decodeAccess, route_serialAddr w off h, registerInstr]

/-- An event key of kind 1 decodes to the receive of its payload. -/
theorem decode_receiveKey (w : OverlapWinner) (b : Byte) : decode w (.event (eventKey 1#4 b)) = .instr (.evRx b) := by
  simp [decode, decodeEvent]

/-- The key of a receive, as the event table writes it: 0x1000 | b. -/
theorem receiveKey_eq_append (b : Byte) : eventKey 1#4 b = 0x10#8 ++ b := rfl

/-! ### What an operation does to the serial fields (10_state R23, R35) -/

/-- The serial fields after an operation that completes. -/
def serialAfter : Instr → Serial → Serial
  | .rxbyteRd, r => { r with rxReady := false }
  | .evRx b, r => { r with rxReady := true, rxByte := b }
  | .evReset, _ => { rxReady := false, rxByte := 0x00#8, lastTxByte := 0x00#8 }
  | _, r => r

/-- Only an RXBYTE read, a receive and a reset change a serial field, and each as its rule says. -/
theorem exec_serial {i : Instr} {s t : State} (h : exec i s = .next t) : t.serial = serialAfter i s.serial := by
  cases i with
  | badWidth z a wdata =>
    rw [exec_badWidth] at h
    obtain ⟨-, he⟩ | ⟨_, _, -, -, he⟩ | ⟨dev, off, -, -, he⟩ := execBadWidth_cases z a wdata s <;> rw [he] at h
    · cases h
    · cases h
    · obtain rfl := Host.Outcome.next.inj h
      cases wdata <;> rfl
  | evRx b =>
    rw [exec_evRx] at h
    obtain ⟨-, -, he⟩ | ⟨-, he⟩ := execEvRx_cases b s <;> rw [he] at h
    · cases h
    · obtain rfl := Host.Outcome.next.inj h
      rfl
  | evRaise l =>
    obtain rfl := Host.Outcome.next.inj h
    simp [serialAfter]
  | evLower l =>
    rw [exec_evLower] at h
    obtain ⟨-, he⟩ | ⟨-, he⟩ := execEvLower_cases l s <;>
      (rw [he] at h; obtain rfl := Host.Outcome.next.inj h; simp [serialAfter])
  | _ =>
    obtain rfl := Host.Outcome.next.inj h
    rfl

/-- No operation but reset writes `lastTxByte`, and reset writes 0 (40_serial R107). -/
theorem exec_lastTxByte {i : Instr} {s t : State} (h : exec i s = .next t) :
    t.serial.lastTxByte = if i = .evReset then 0x00#8 else s.serial.lastTxByte := by
  rw [exec_serial h]
  cases i <;> simp [serialAfter]

/-- A step keeps `lastTxByte` at 0, whatever it does. -/
theorem step_keeps_lastTxByte_zero {s t : State} (hs : s.serial.lastTxByte = 0x00#8) (h : step s = .next t) :
    t.serial.lastTxByte = 0x00#8 := by
  obtain ⟨-, rfl⟩ | ⟨_, _, i, -, -, hi⟩ := step_next_cases h
  · exact hs
  · rw [exec_lastTxByte hi, hs, ite_self]

/-! ### The statements -/

/-- Settles O19: `lastTxByte` is followed through `exec` and `step`, and TXBYTE reads it. -/
theorem txbyteReadsZeroWhateverWasSent : Obligations.TxbyteReadsZeroWhateverWasSent := by
  refine ⟨fun w d => decode_serialAccess w false 6#4 d (by simp), txbyteRd_returns_lastTxByte,
    fun _ _ _ h => exec_lastTxByte h, fun s t hs h => ?_, rfl⟩
  have ht := step_keeps_lastTxByte_zero hs h
  refine ⟨ht, ?_⟩
  rw [txbyteRd_returns_lastTxByte, ht]
  rfl

/-- Settles O24: both answers and both read values are those of `rxReady`. -/
theorem canAcceptExactlyWhenRxreadyReadsZero : Obligations.CanAcceptExactlyWhenRxreadyReadsZero := by
  intro s
  refine ⟨rfl, ?_⟩
  simp only [rxreadyRd_returns_iff, canAccept]
  cases s.serial.rxReady <;> decide

/-- Settles O13. -/
theorem rxreadyReadReturnsTheFlag : Obligations.RxreadyReadReturnsTheFlag := by
  refine ⟨fun w d => decode_serialAccess w false 0#4 d (by simp), fun s => ?_⟩
  rw [exec_rxreadyRd, zextFlag_eq_ite, returnValue_startStep]

/-- Settles O14. -/
theorem rxreadyWriteIsOnlyLogged : Obligations.RxreadyWriteIsOnlyLogged := by
  refine ⟨fun w d => decode_serialAccess w true 0#4 d (by simp), fun v s => ?_⟩
  rw [exec_rxreadyWr, ignoredWrite_startStep]

/-- Settles O15. -/
theorem txreadyAlwaysReadsOne : Obligations.TxreadyAlwaysReadsOne := by
  refine ⟨fun w d => decode_serialAccess w false 2#4 d (by simp), fun s => ?_⟩
  rw [exec_txreadyRd, returnValue_startStep]

/-- Settles O16: the read after the write is TXREADY's read of any state. -/
theorem txreadyWriteIsOnlyLogged : Obligations.TxreadyWriteIsOnlyLogged :=
  ⟨fun w d => decode_serialAccess w true 2#4 d (by simp), fun v s =>
    ⟨_, exec_txreadyWr s v, ignoredWrite_startStep .serial 2#4 v s, _, exec_txreadyRd _, rfl⟩⟩

/-- Settles O18. -/
theorem rxbyteWriteIsOnlyLogged : Obligations.RxbyteWriteIsOnlyLogged := by
  refine ⟨fun w d => decode_serialAccess w true 4#4 d (by simp), fun v s => ?_⟩
  rw [exec_rxbyteWr, ignoredWrite_startStep]

/-- Settles O23: the two branches of a receive. -/
theorem receiveStoresTheByte : Obligations.ReceiveStoresTheByte := by
  refine ⟨fun w b => receiveKey_eq_append b ▸ decode_receiveKey w b, fun b s hs => ?_, fun b s hr hp => ?_⟩
  · rw [exec_evRx_stores s hs, setReceived_startStep]
  · rw [exec_evRx_overruns s hr hp, receiveKey_eq_append]

end Sys2Proof.Machine

/-! ## The interrupt aggregator (41_aggregator): the decode of its keys, its read value, and the statement of its read -/

namespace Sys2Proof.Machine

open Sys2Proof.Config

/-- The value of the pending mask is the mask below twelve zero bits (30_encoding R83). -/
theorem zextMask_eq_append (m : LineMask) : zextMask m = 0#12 ++ m :=
  BitVec.setWidth_eq_append (by decide)

/-- Where the aggregator wins the overlap, its two offsets are routed to it (20_memory R51). -/
theorem route_aggAddr (off : Offset) (h : off = 0#4 ∨ off = 1#4) :
    route .aggregator (aggAddr off) = some (.agg, off) := by
  obtain rfl | rfl := h <;> decide

/-- Where the aggregator wins the overlap, a 2-byte access of an aggregator offset decodes to the operation of that
offset, the data cut to 16 bits. -/
theorem decode_aggAccess (write : Bool) (off : Offset) (d : Data) (h : off = 0#4 ∨ off = 1#4) :
    decode .aggregator (.access (accessKey .two write (aggAddr off)) d) =
      .instr (aggInstr off write (deviceData d)) := by
  simp [decode, decodeAccess, route_aggAddr off h, registerInstr]

/-- Settles O27. -/
theorem pendingReadReturnsTheMask : Obligations.PendingReadReturnsTheMask := by
  refine ⟨fun d => decode_aggAccess false 0#4 d (.inl rfl), fun s => ?_⟩
  rw [exec_pendingRd, zextMask_eq_append, returnValue_startStep]

end Sys2Proof.Machine

/-! ## The timer adapter (42_timer): the decode of its key, its one effect, and the statement of its expiry -/

namespace Sys2Proof.Machine

open Sys2Proof.Config

/-- An event key of kind 4 with no payload decodes to the expiry (30_encoding R85). -/
theorem decode_expiryKey (w : OverlapWinner) : decode w (.event (eventKey 4#4 0#8)) = .instr .evExpire := by
  simp [decode, decodeEvent, decodeBare]

/-- The key of an expiry, as the event table writes it. -/
theorem expiryKey_eq : eventKey 4#4 0#8 = 0x4000#16 := rfl

/-- An operation that only asserts the timer's output line (42_timer R150). -/
theorem emit_timerOut_startStep (s : State) :
    emit (.assertLine .timerOut) (startStep s) =
      { s with
        env := { s.env with timerAsserts := s.env.timerAsserts + 1 }
        out := { ret := none, events := [.assertLine .timerOut] } } := rfl

/-- Settles O38. -/
theorem expiryAssertsTheTimerLineOnce : Obligations.ExpiryAssertsTheTimerLineOnce := by
  refine ⟨fun w => expiryKey_eq ▸ decode_expiryKey w, fun s => ?_⟩
  rw [exec_evExpire, emit_timerOut_startStep]

end Sys2Proof.Machine

/-! ## Encoding and decoding (30_encoding): the two round trips -/

namespace Sys2Proof

open Sys2Proof.Config Sys2Proof.Machine

/-! ### The routing of an address, read backwards (20_memory R51, R54) -/

/-- The addresses of the serial window are those of the 16 serial offsets. -/
theorem serialAddr_offsetFrom {a : Addr} (h : inSerialWindow a = true) : serialAddr (offsetFrom serialBase a) = a := by
  obtain ⟨hlo, hhi⟩ := (inSerialWindow_iff a).mp h
  apply BitVec.eq_of_toNat_eq
  simp only [serialAddr, offsetFrom, serialBase, BitVec.toNat_add, BitVec.toNat_setWidth, BitVec.toNat_sub,
    BitVec.toNat_ofNat]
  omega

/-- Which device answers an address: the aggregator at its two offsets where it wins the overlap, the serial device at
each of its offsets but 8 and 9 there. -/
theorem route_some_cases {w : OverlapWinner} {a : Addr} {dev : Dev} {off : Offset} (h : route w a = some (dev, off)) :
    (dev = .agg ∧ w = .aggregator ∧ a = aggAddr off ∧ (off = 0#4 ∨ off = 1#4)) ∨
    (dev = .serial ∧ a = serialAddr off ∧ (off = 8#4 ∨ off = 9#4 → w = .serial)) := by
  unfold route at h
  split at h
  · rename_i hagg
    obtain ⟨rfl, rfl⟩ : Dev.agg = dev ∧ offsetFrom aggBase a = off := by simpa using h
    obtain rfl | rfl := (inAggWindow_iff a).mp hagg.2
    · exact .inl ⟨rfl, hagg.1, rfl, .inl rfl⟩
    · exact .inl ⟨rfl, hagg.1, rfl, .inr rfl⟩
  · rename_i hagg
    split at h
    · rename_i hser
      obtain ⟨rfl, rfl⟩ : Dev.serial = dev ∧ offsetFrom serialBase a = off := by simpa using h
      have ha := serialAddr_offsetFrom hser
      refine .inr ⟨rfl, ha.symm, fun hoff => ?_⟩
      have hwin : inAggWindow a = true := by
        rw [← ha]
        obtain h8 | h9 := hoff
        · rw [h8]; rfl
        · rw [h9]; rfl
      cases w with
      | serial => rfl
      | aggregator => exact absurd ⟨rfl, hwin⟩ hagg
    · simp at h

/-! ### Keys rebuilt from their fields (30_encoding R80, R84) -/

/-- The width field determines the width, and the width the field. -/
theorem sizeBits_keySize (k : AccessKey) : sizeBits (keySize k) = k.extractLsb' 34 2 := by
  unfold keySize
  generalize k.extractLsb' 34 2 = z
  revert z
  decide

/-- An access key with its reserved bit clear is built from its width, its direction and its address. -/
theorem accessKey_keyFields {k : AccessKey} (h : keyReserved k = false) :
    accessKey (keySize k) (keyWrite k) (keyAddr k) = k := by
  apply BitVec.eq_of_getLsbD_eq
  intro i hi
  rw [accessKey_getLsbD, sizeBits_keySize]
  obtain hlt | rfl | rfl | hge : i < 32 ∨ i = 32 ∨ i = 33 ∨ 34 ≤ i := by omega
  · simp [keyAddr, hlt]
  · rfl
  · exact h.symm
  · have h2 : i - 34 < 2 := by omega
    have hsum : 34 + (i - 34) = i := by omega
    simp [h2, hsum, show ¬ i < 32 by omega, show i ≠ 32 by omega, show i ≠ 33 by omega]

/-- An event key, bit by bit: the payload, the reserved bits, the kind. -/
theorem eventKey_getLsbD (kind : BitVec 4) (p : Byte) (i : Nat) :
    (eventKey kind p).getLsbD i =
      if i < 8 then p.getLsbD i else if i < 12 then false else kind.getLsbD (i - 12) := by
  rw [eventKey, BitVec.getLsbD_append, BitVec.getLsbD_append]
  obtain h | h | h : i < 8 ∨ (8 ≤ i ∧ i < 12) ∨ 12 ≤ i := by omega
  · simp [h]
  · simp [h.2, show ¬ i < 8 by omega, show i - 8 < 4 by omega]
  · simp [show ¬ i < 8 by omega, show ¬ i < 12 by omega, show ¬ i - 8 < 4 by omega, show i - 8 - 4 = i - 12 by omega]

/-- An event key with its reserved bits clear is built from its kind and its payload. -/
theorem eventKey_eventFields {k : EventKey} (h : eventReserved k = 0#4) :
    eventKey (eventKind k) (eventPayload k) = k := by
  apply BitVec.eq_of_getLsbD_eq
  intro i hi
  rw [eventKey_getLsbD]
  obtain hp | hr | hk : i < 8 ∨ (8 ≤ i ∧ i < 12) ∨ 12 ≤ i := by omega
  · simp [hp, eventPayload]
  · have hbit : (eventReserved k).getLsbD (i - 8) = false := by rw [h]; simp
    rw [eventReserved, BitVec.getLsbD_extractLsb', show 8 + (i - 8) = i by omega] at hbit
    simpa [hr.2, show ¬ i < 8 by omega, show i - 8 < 4 by omega] using hbit.symm
  · simp [eventKind, show ¬ i < 8 by omega, show ¬ i < 12 by omega, show i - 12 < 4 by omega,
      show 12 + (i - 12) = i by omega]

/-! ### The data operand (30_encoding R80, R82) -/

/-- A register value survives the trip through the data operand. -/
@[simp] theorem deviceData_setWidth (v : HalfWord) : deviceData (v.setWidth 64) = v := by
  apply BitVec.eq_of_toNat_eq
  simp only [deviceData, BitVec.extractLsb'_toNat, BitVec.toNat_setWidth, Nat.shiftRight_zero]
  omega

/-- Cutting the data to its width is idempotent. -/
@[simp] theorem wrongSizeData_idem (z : WrongSize) (d : Data) :
    wrongSizeData z (wrongSizeData z d) = wrongSizeData z d := by
  cases z <;> simp [wrongSizeData]

/-- The data operand of an input with no stray bits: 0 for a read. -/
theorem data_of_wf_read {k : AccessKey} {d : Data} (h : (Input.access k d).wf = true) (hw : keyWrite k = false) :
    d = 0#64 := by
  rw [Input.wf, show k.getLsbD 32 = false from hw] at h
  exact of_decide_eq_true h

/-- The data operand of an input with no stray bits: below the width of a write. -/
theorem data_lt_of_wf_write {k : AccessKey} {d : Data} (h : (Input.access k d).wf = true) (hw : keyWrite k = true) :
    d.toNat < 2 ^ (8 * 2 ^ (sizeBits (keySize k)).toNat) := by
  rw [sizeBits_keySize]
  rw [Input.wf, show k.getLsbD 32 = true from hw] at h
  exact of_decide_eq_true h

/-- Data below 2 bytes is the register value it carries. -/
theorem setWidth_deviceData {d : Data} (h : d.toNat < 2 ^ 16) : (deviceData d).setWidth 64 = d := by
  apply BitVec.eq_of_toNat_eq
  simp only [deviceData, BitVec.toNat_setWidth, BitVec.extractLsb'_toNat, Nat.shiftRight_zero]
  omega

/-- Data below its width is what the width keeps of it. -/
theorem wrongSizeData_eq_self {z : WrongSize} {d : Data} (h : d.toNat < 2 ^ (8 * 2 ^ (sizeBits (.wrong z)).toNat)) :
    wrongSizeData z d = d := by
  apply BitVec.eq_of_toNat_eq
  cases z <;> simp [wrongSizeData, sizeBits] at h ⊢ <;> omega

/-! ### The branches of the access decoder (30_encoding R86) -/

section

variable {w : OverlapWinner} {k : AccessKey} {d : Data}

/-- The block answers no address below 0xF0000008 or above 0xF0000017 (20_memory R53). -/
theorem route_eq_none_iff {a : Addr} : route w a = none ↔ a.toNat < 0xF0000008 ∨ 0xF0000017 < a.toNat := by
  rw [← Option.not_isSome_iff_eq_none, route_isSome_iff]
  omega

/-- A set reserved bit is refused first. -/
theorem decode_access_reserved (h : keyReserved k = true) : decode w (.access k d) = .rejected .reservedKeyBit := by
  simp [decode, decodeAccess, h]

/-- An address in neither window is refused next. -/
theorem decode_access_outside (h : keyReserved k = false) (hr : route w (keyAddr k) = none) :
    decode w (.access k d) = .rejected .notThisBlock := by
  simp [decode, decodeAccess, h, hr]

/-- A wrong width in a window decodes to BADWIDTH with the data its width keeps. -/
theorem decode_access_wrong {z : WrongSize} (h : keyReserved k = false) (hr : (route w (keyAddr k)).isSome = true)
    (hz : keySize k = .wrong z) :
    decode w (.access k d) =
      .instr (.badWidth z (keyAddr k) (if keyWrite k then some (wrongSizeData z d) else none)) := by
  obtain ⟨p, hp⟩ := Option.isSome_iff_exists.mp hr
  simp [decode, decodeAccess, h, hp, hz]

/-- A 2-byte access in a window decodes to the register of the device that answers. -/
theorem decode_access_two {dev : Dev} {off : Offset} (h : keyReserved k = false)
    (hr : route w (keyAddr k) = some (dev, off)) (hz : keySize k = .two) :
    decode w (.access k d) = .instr (registerInstr dev off (keyWrite k) (deviceData d)) := by
  simp [decode, decodeAccess, h, hr, hz]

/-- A bus access that decodes to an operation: its reserved bit is clear, a device answers its address, and the
operation is that device's register or BADWIDTH, by its width. -/
theorem decode_access_cases {i : Instr} (h : decode w (.access k d) = .instr i) :
    keyReserved k = false ∧ ∃ dev off, route w (keyAddr k) = some (dev, off) ∧
      ((keySize k = .two ∧ i = registerInstr dev off (keyWrite k) (deviceData d)) ∨
        ∃ z, keySize k = .wrong z ∧
          i = .badWidth z (keyAddr k) (if keyWrite k then some (wrongSizeData z d) else none)) := by
  cases hres : keyReserved k with
  | true => simp [decode_access_reserved hres] at h
  | false =>
    cases hr : route w (keyAddr k) with
    | none => simp [decode_access_outside hres hr] at h
    | some p =>
      refine ⟨rfl, p.1, p.2, rfl, ?_⟩
      cases hz : keySize k with
      | two =>
        rw [decode_access_two hres hr hz] at h
        exact .inl ⟨rfl, (Decoded.instr.inj h).symm⟩
      | wrong z =>
        rw [decode_access_wrong hres (by rw [hr]; rfl) hz] at h
        exact .inr ⟨z, rfl, (Decoded.instr.inj h).symm⟩

end

/-! ### What each kind of input decodes to -/

section

variable {w : OverlapWinner}

/-- A 2-byte read of a serial offset decodes to the read of that offset. -/
theorem decode_load16_serialAddr {off : Offset} (h : off = 8#4 ∨ off = 9#4 → w = .serial) :
    decode w (load16 (serialAddr off)) = .instr (serialInstr off false 0#16) :=
  decode_serialAccess w false off 0#64 h

/-- A 2-byte write to a serial offset decodes to the write of that offset, with the value written. -/
theorem decode_store16_serialAddr {off : Offset} (v : HalfWord) (h : off = 8#4 ∨ off = 9#4 → w = .serial) :
    decode w (store16 (serialAddr off) v) = .instr (serialInstr off true v) := by
  rw [store16, decode_serialAccess w true off _ h, deviceData_setWidth]

/-- A 2-byte write to an aggregator offset decodes to the write of that offset, with the value written. -/
theorem decode_store16_aggAddr {off : Offset} (v : HalfWord) (h : off = 0#4 ∨ off = 1#4) :
    decode .aggregator (store16 (aggAddr off) v) = .instr (aggInstr off true v) := by
  rw [store16, decode_aggAccess true off _ h, deviceData_setWidth]

/-- An access of a wrong width in a window decodes to BADWIDTH with the data its width keeps. -/
theorem decode_wrongWidthAccess {z : WrongSize} {write : Bool} {a : Addr} {d : Data}
    (h : (route w a).isSome = true) :
    decode w (.access (accessKey (.wrong z) write a) d) =
      .instr (.badWidth z a (if write then some (wrongSizeData z d) else none)) := by
  simpa using decode_access_wrong (k := accessKey (.wrong z) write a) (d := d) (keyReserved_accessKey _ _ _)
    (by rwa [keyAddr_accessKey]) (keySize_accessKey _ _ _)

/-- A payload that decodes to a line is that line's payload (30_encoding R85). -/
theorem decodeLine_eq_instr {p : Byte} {mk : Line → Instr} {i : Instr} (h : decodeLine p mk = .instr i) :
    ∃ l, p = linePayload l ∧ i = mk l := by
  unfold decodeLine at h
  split at h
  · rename_i hp
    refine ⟨p.extractLsb' 0 2, ?_, by simpa using h.symm⟩
    revert hp
    generalize p = q
    revert q
    decide
  · simp at h

/-- A line's payload decodes to the line. -/
@[simp] theorem decodeLine_linePayload (l : Line) (mk : Line → Instr) :
    decodeLine (linePayload l) mk = .instr (mk l) := by
  have hline : (linePayload l).extractLsb' 2 6 = 0#6 ∧ (linePayload l).extractLsb' 0 2 = l := by
    revert l; decide
  simp [decodeLine, hline]

/-- A bare event decodes only with the payload 0 (30_encoding R85). -/
theorem decodeBare_eq_instr {p : Byte} {i j : Instr} (h : decodeBare p j = .instr i) : p = 0#8 ∧ i = j := by
  unfold decodeBare at h
  split at h
  · rename_i hp
    exact ⟨hp, by simpa using h.symm⟩
  · simp at h

/-- The event keys that decode to an operation, kind by kind (30_encoding R85). -/
theorem decode_event_cases {k : EventKey} {i : Instr} (h : decode w (.event k) = .instr i) :
    (∃ b, k = eventKey 1#4 b ∧ i = .evRx b) ∨
    (∃ l, k = eventKey 2#4 (linePayload l) ∧ i = .evRaise l) ∨
    (∃ l, k = eventKey 3#4 (linePayload l) ∧ i = .evLower l) ∨
    (k = eventKey 4#4 0#8 ∧ i = .evExpire) ∨ (k = eventKey 5#4 0#8 ∧ i = .evReset) := by
  simp only [decode, decodeEvent] at h
  split at h
  · simp at h
  · rename_i hres
    rw [← eventKey_eventFields (not_not.mp hres)]
    generalize eventKind k = kind, eventPayload k = p at h ⊢
    split_ifs at h with h1 h2 h3 h4 h5
    · exact .inl ⟨p, by rw [h1], by simpa using h.symm⟩
    · obtain ⟨l, rfl, rfl⟩ := decodeLine_eq_instr h
      exact .inr (.inl ⟨l, by rw [h2], rfl⟩)
    · obtain ⟨l, rfl, rfl⟩ := decodeLine_eq_instr h
      exact .inr (.inr (.inl ⟨l, by rw [h3], rfl⟩))
    · obtain ⟨rfl, rfl⟩ := decodeBare_eq_instr h
      exact .inr (.inr (.inr (.inl ⟨by rw [h4], rfl⟩)))
    · obtain ⟨rfl, rfl⟩ := decodeBare_eq_instr h
      exact .inr (.inr (.inr (.inr ⟨by rw [h5], rfl⟩)))

/-! ### The encoding of what a device's offset stands for -/

/-- The data operand a register access carries: the value of a write, 0 for a read. -/
def registerData (write : Bool) (v : HalfWord) : Data := if write then v.setWidth 64 else 0#64

/-- The operation of an offset that is no register's. -/
theorem serialInstr_of_undefined {off : Offset} (h : off ≠ 0#4 ∧ off ≠ 2#4 ∧ off ≠ 4#4 ∧ off ≠ 6#4) (write : Bool)
    (v : HalfWord) : serialInstr off write v = if write then .serialUndefWr off v else .serialUndefRd off := by
  simp [serialInstr, h]

/-- A serial offset's operation is encoded as the 2-byte access of that offset. -/
theorem encode_serialInstr (off : Offset) (write : Bool) (v : HalfWord) :
    encode (serialInstr off write v) = .access (accessKey .two write (serialAddr off)) (registerData write v) := by
  by_cases hreg : off ≠ 0#4 ∧ off ≠ 2#4 ∧ off ≠ 4#4 ∧ off ≠ 6#4
  · rw [serialInstr_of_undefined hreg]
    cases write <;> rfl
  · obtain rfl | rfl | rfl | rfl : off = 0#4 ∨ off = 2#4 ∨ off = 4#4 ∨ off = 6#4 := by tauto
    all_goals cases write <;> rfl

/-- An aggregator offset's operation is encoded as the 2-byte access of that offset. -/
theorem encode_aggInstr {off : Offset} (h : off = 0#4 ∨ off = 1#4) (write : Bool) (v : HalfWord) :
    encode (aggInstr off write v) = .access (accessKey .two write (aggAddr off)) (registerData write v) := by
  obtain rfl | rfl := h <;> cases write <;> rfl

/-- The undefined serial offsets: no register's, and 8 and 9 only where the serial device wins the overlap (40_serial
R109). -/
theorem undefinedSerialOffset_iff (w : OverlapWinner) (off : Offset) :
    undefinedSerialOffset w off = true ↔
      (off ≠ 0#4 ∧ off ≠ 2#4 ∧ off ≠ 4#4 ∧ off ≠ 6#4) ∧ (off = 8#4 ∨ off = 9#4 → w = .serial) := by
  simp only [undefinedSerialOffset, Bool.and_eq_true, Bool.or_eq_true, decide_eq_true_eq]
  tauto

/-- A serial offset's operation is well-formed where the serial device answers that offset. -/
theorem wf_serialInstr {off : Offset} (h : off = 8#4 ∨ off = 9#4 → w = .serial) (write : Bool) (v : HalfWord) :
    (serialInstr off write v).wf w = true := by
  by_cases hreg : off ≠ 0#4 ∧ off ≠ 2#4 ∧ off ≠ 4#4 ∧ off ≠ 6#4
  · rw [serialInstr_of_undefined hreg]
    cases write <;> exact (undefinedSerialOffset_iff w off).mpr ⟨hreg, h⟩
  · obtain rfl | rfl | rfl | rfl : off = 0#4 ∨ off = 2#4 ∨ off = 4#4 ∨ off = 6#4 := by tauto
    all_goals cases write <;> rfl

/-- The aggregator's operations are well-formed where it wins the overlap. -/
theorem wf_aggInstr (off : Offset) (write : Bool) (v : HalfWord) : (aggInstr off write v).wf .aggregator = true := by
  unfold aggInstr
  cases write <;> split_ifs <;> rfl

/-- The operation a routed 2-byte access decodes to is encoded as that access, and is well-formed. -/
theorem encode_registerInstr {a : Addr} {dev : Dev} {off : Offset} (h : route w a = some (dev, off)) (write : Bool)
    (v : HalfWord) :
    encode (registerInstr dev off write v) = .access (accessKey .two write a) (registerData write v) ∧
      (registerInstr dev off write v).wf w = true := by
  obtain ⟨rfl, rfl, rfl, hoff⟩ | ⟨rfl, rfl, hoff⟩ := route_some_cases h
  · exact ⟨encode_aggInstr hoff write v, wf_aggInstr off write v⟩
  · exact ⟨encode_serialInstr off write v, wf_serialInstr hoff write v⟩

/-- Whatever the decoder gives is well-formed, stray data bits or not. -/
theorem wf_of_decode {x : Input} {i : Instr} (h : decode w x = .instr i) : i.wf w = true := by
  cases x with
  | access k d =>
    obtain ⟨-, dev, off, hr, ⟨-, rfl⟩ | ⟨z, -, rfl⟩⟩ := decode_access_cases h
    · exact (encode_registerInstr hr _ _).2
    · cases hw : keyWrite k <;> simp [Instr.wf, hr]
  | event k =>
    obtain ⟨_, -, rfl⟩ | ⟨_, -, rfl⟩ | ⟨_, -, rfl⟩ | ⟨-, rfl⟩ | ⟨-, rfl⟩ := decode_event_cases h <;> rfl
  | fetch a => simp [decode] at h

end

/-! ### The round trips -/

/-- Settles O1: a register operation through its address, BADWIDTH through its key's fields, an event through its kind
and payload. -/
theorem decodeOfEncodeIsTheOperation : Obligations.DecodeOfEncodeIsTheOperation := by
  intro w i h
  cases i with
  | rxreadyRd => exact decode_load16_serialAddr (off := 0#4) (by simp)
  | rxreadyWr v => exact decode_store16_serialAddr (off := 0#4) v (by simp)
  | txreadyRd => exact decode_load16_serialAddr (off := 2#4) (by simp)
  | txreadyWr v => exact decode_store16_serialAddr (off := 2#4) v (by simp)
  | rxbyteRd => exact decode_load16_serialAddr (off := 4#4) (by simp)
  | rxbyteWr v => exact decode_store16_serialAddr (off := 4#4) v (by simp)
  | txbyteRd => exact decode_load16_serialAddr (off := 6#4) (by simp)
  | txbyteWr v => exact decode_store16_serialAddr (off := 6#4) v (by simp)
  | serialUndefRd off =>
    obtain ⟨hoff, h89⟩ := (undefinedSerialOffset_iff w off).mp h
    exact (decode_load16_serialAddr h89).trans (by rw [serialInstr_of_undefined hoff]; rfl)
  | serialUndefWr off v =>
    obtain ⟨hoff, h89⟩ := (undefinedSerialOffset_iff w off).mp h
    exact (decode_store16_serialAddr v h89).trans (by rw [serialInstr_of_undefined hoff]; rfl)
  | pendingRd =>
    obtain rfl : w = .aggregator := by simpa [Instr.wf] using h
    exact decode_aggAccess false 0#4 _ (.inl rfl)
  | pendingWr v =>
    obtain rfl : w = .aggregator := by simpa [Instr.wf] using h
    exact decode_store16_aggAddr v (.inl rfl)
  | aggUndefRd =>
    obtain rfl : w = .aggregator := by simpa [Instr.wf] using h
    exact decode_aggAccess false 1#4 _ (.inr rfl)
  | aggUndefWr v =>
    obtain rfl : w = .aggregator := by simpa [Instr.wf] using h
    exact decode_store16_aggAddr v (.inr rfl)
  | badWidth z a wdata =>
    cases wdata with
    | none => exact decode_wrongWidthAccess h
    | some d =>
      obtain ⟨hr, hd⟩ : (route w a).isSome = true ∧ wrongSizeData z d = d := by simpa [Instr.wf] using h
      exact (decode_wrongWidthAccess hr).trans (by simp [hd])
  | evRx b => exact decode_receiveKey w b
  | evRaise l => simp [encode, decode, decodeEvent]
  | evLower l => simp [encode, decode, decodeEvent]
  | evExpire => exact decode_expiryKey w
  | evReset => rfl

/-- Settles O2: the key is rebuilt from its fields, and the data from the width it must have. -/
theorem encodeOfDecodeIsTheInput : Obligations.EncodeOfDecodeIsTheInput := by
  intro w x i hx h
  refine ⟨?_, wf_of_decode h⟩
  cases x with
  | access k d =>
    obtain ⟨hres, dev, off, hr, ⟨hz, rfl⟩ | ⟨z, hz, rfl⟩⟩ := decode_access_cases h
    · rw [(encode_registerInstr hr _ _).1, ← hz, accessKey_keyFields hres]
      cases hw : keyWrite k with
      | false => rw [data_of_wf_read hx hw]; rfl
      | true =>
        have hd := data_lt_of_wf_write hx hw
        rw [hz] at hd
        rw [registerData, if_pos rfl, setWidth_deviceData hd]
    · cases hw : keyWrite k with
      | false =>
        rw [data_of_wf_read hx hw, ← accessKey_keyFields hres, hw, hz]
        simp [encode]
      | true =>
        have hd := data_lt_of_wf_write hx hw
        rw [hz] at hd
        rw [if_pos rfl, wrongSizeData_eq_self hd, encode, ← hz, ← hw, accessKey_keyFields hres]
  | event k =>
    obtain ⟨_, rfl, rfl⟩ | ⟨_, rfl, rfl⟩ | ⟨_, rfl, rfl⟩ | ⟨rfl, rfl⟩ | ⟨rfl, rfl⟩ := decode_event_cases h <;> rfl
  | fetch a => simp [decode] at h

end Sys2Proof

/-! ## What a completing operation does to the whole state (00_scope R9), and what follows from it -/

namespace Sys2Proof.Machine

open Sys2Proof.Config

/-! ### The effect of an operation, part by part -/

/-- The pending mask after an operation that completes (41_aggregator R132, R135, 70_reset R190). -/
def pendingAfter (s : State) : Instr → LineMask
  | .rxreadyRd => s.agg.pending
  | .rxreadyWr _ => s.agg.pending
  | .txreadyRd => s.agg.pending
  | .txreadyWr _ => s.agg.pending
  | .rxbyteRd => s.agg.pending
  | .rxbyteWr _ => s.agg.pending
  | .txbyteRd => s.agg.pending
  | .txbyteWr _ => s.agg.pending
  | .serialUndefRd _ => s.agg.pending
  | .serialUndefWr _ _ => s.agg.pending
  | .pendingRd => s.agg.pending
  | .pendingWr v => pendingAfterWrite s.cfg.aggInputMode s.env.aggIn s.agg.pending (ackOperand v)
  | .aggUndefRd => s.agg.pending
  | .aggUndefWr _ => s.agg.pending
  | .badWidth _ _ _ => s.agg.pending
  | .evRx _ => s.agg.pending
  | .evRaise l => s.agg.pending ||| lineBit l
  | .evLower _ => s.agg.pending
  | .evExpire => s.agg.pending
  | .evReset => 0b0000#4

/-- The input line levels after an operation that completes (41_aggregator R139). -/
def aggInAfter (s : State) : Instr → LineMask
  | .evRaise l => if s.cfg.aggInputMode = .level then s.env.aggIn ||| lineBit l else s.env.aggIn
  | .evLower l => if s.cfg.aggInputMode = .level then s.env.aggIn &&& ~~~(lineBit l) else s.env.aggIn
  | _ => s.env.aggIn

/-- The record of a wrong-width access that completes (20_memory R55). -/
def wrongWidthRecord (s : State) (a : Addr) (wdata : Option Data) : Option LogRecord :=
  (route s.cfg.overlapWinner a).map fun p => logRecord p.1 p.2 (wdata.map deviceData)

/-- The events an operation that completes emits: at most one. -/
def emitted (s : State) : Instr → List Event
  | .rxreadyRd => []
  | .rxreadyWr v => [.log (logRecord .serial 0#4 (some v))]
  | .txreadyRd => []
  | .txreadyWr v => [.log (logRecord .serial 2#4 (some v))]
  | .rxbyteRd => [.acceptInput]
  | .rxbyteWr v => [.log (logRecord .serial 4#4 (some v))]
  | .txbyteRd => []
  | .txbyteWr v => [.tx (txOperand v)]
  | .serialUndefRd off => [.log (logRecord .serial off none)]
  | .serialUndefWr off v => [.log (logRecord .serial off (some v))]
  | .pendingRd => []
  | .pendingWr _ => [.assertLine .aggOut]
  | .aggUndefRd => [.log (logRecord .agg 1#4 none)]
  | .aggUndefWr v => [.log (logRecord .agg 1#4 (some v))]
  | .badWidth _ a wdata => (wrongWidthRecord s a wdata).toList.map .log
  | .evRx _ => []
  | .evRaise _ => [.assertLine .aggOut]
  | .evLower _ => if s.cfg.aggAssertOnLower then [.assertLine .aggOut] else []
  | .evExpire => [.assertLine .timerOut]
  | .evReset => []

/-- The value an operation that completes returns: a read's, nothing for a write or an event. -/
def returned (s : State) : Instr → Option ReadValue
  | .rxreadyRd => some (.two (zextFlag s.serial.rxReady))
  | .rxreadyWr _ => none
  | .txreadyRd => some (.two 0x0001#16)
  | .txreadyWr _ => none
  | .rxbyteRd => some (.two (zextByte s.serial.rxByte))
  | .rxbyteWr _ => none
  | .txbyteRd => some (.two (zextByte s.serial.lastTxByte))
  | .txbyteWr _ => none
  | .serialUndefRd _ => some (.two 0x0000#16)
  | .serialUndefWr _ _ => none
  | .pendingRd => some (.two (zextMask s.agg.pending))
  | .pendingWr _ => none
  | .aggUndefRd => some (.two 0x0000#16)
  | .aggUndefWr _ => none
  | .badWidth z _ none => some (zeroValue (.wrong z))
  | .badWidth _ _ (some _) => none
  | .evRx _ => none
  | .evRaise _ => none
  | .evLower _ => none
  | .evExpire => none
  | .evReset => none

/-- The state an operation that completes leaves. -/
def effect (s : State) (i : Instr) : State :=
  { s with
    serial := serialAfter i s.serial
    agg := { pending := pendingAfter s i }
    env := (emitted s i).foldl recordEvent { s.env with aggIn := aggInAfter s i }
    out := { ret := returned s i, events := emitted s i }
    cpuResetPc := if i = .evReset then s.boot.bootstrapPC else s.cpuResetPc }

/-- Whether an operation completes: BADWIDTH only in a window and only under the ignoring policy, a receive unless it
overruns under the faulting policy, everything else always (60_exceptions R160). -/
def completes (s : State) : Instr → Bool
  | .badWidth _ a _ => (route s.cfg.overlapWinner a).isSome && decide (s.cfg.badWidthPolicy = .ignore)
  | .evRx _ => !decide (s.serial.rxReady = true ∧ s.cfg.rxOverrunPolicy = .fault)
  | _ => true

@[simp] theorem effect_serial (s : State) (i : Instr) : (effect s i).serial = serialAfter i s.serial := rfl
@[simp] theorem effect_agg (s : State) (i : Instr) : (effect s i).agg = { pending := pendingAfter s i } := rfl
@[simp] theorem effect_env (s : State) (i : Instr) :
    (effect s i).env = (emitted s i).foldl recordEvent { s.env with aggIn := aggInAfter s i } := rfl
@[simp] theorem effect_out (s : State) (i : Instr) :
    (effect s i).out = { ret := returned s i, events := emitted s i } := rfl
@[simp] theorem effect_cpuResetPc (s : State) (i : Instr) :
    (effect s i).cpuResetPc = if i = .evReset then s.boot.bootstrapPC else s.cpuResetPc := rfl
@[simp] theorem effect_boot (s : State) (i : Instr) : (effect s i).boot = s.boot := rfl
@[simp] theorem effect_cfg (s : State) (i : Instr) : (effect s i).cfg = s.cfg := rfl
@[simp] theorem effect_schedule (s : State) (i : Instr) : (effect s i).schedule = s.schedule := rfl

/-- Driving a line, as an update of the whole state: only the level mode writes a level (41_aggregator R139). -/
theorem driveLine_eq (l : Line) (b : Bool) (s : State) :
    driveLine l b s = { s with env := { s.env with
      aggIn := if s.cfg.aggInputMode = .level then
          (if b then s.env.aggIn ||| lineBit l else s.env.aggIn &&& ~~~(lineBit l))
        else s.env.aggIn } } := by
  rw [← driveLine_env]
  unfold driveLine
  split <;> rfl

/-- The meaning of every operation that completes is its effect. -/
theorem exec_of_completes {s : State} {i : Instr} (h : completes s i = true) : exec i s = .next (effect s i) := by
  cases i with
  | badWidth z a wdata =>
    obtain ⟨hr, hp⟩ : (route s.cfg.overlapWinner a).isSome = true ∧ s.cfg.badWidthPolicy = .ignore := by
      simpa [completes] using h
    obtain ⟨hn, -⟩ | ⟨_, _, -, hf, -⟩ | ⟨dev, off, hd, -, he⟩ := execBadWidth_cases z a wdata s
    · simp [hn] at hr
    · simp [hf] at hp
    · refine he.trans (congrArg Host.Outcome.next ?_)
      cases wdata <;> simp only [effect, emitted, wrongWidthRecord, hd] <;> rfl
  | evRx b =>
    have hov : ¬ (s.serial.rxReady = true ∧ s.cfg.rxOverrunPolicy = .fault) := by
      simpa [completes, imp_iff_not_or] using h
    exact exec_evRx_stores s hov
  | evRaise l =>
    rw [exec_evRaise, driveLine_eq]
    rfl
  | evLower l =>
    obtain ⟨ha, he⟩ | ⟨ha, he⟩ := execEvLower_cases l s
    all_goals
      refine he.trans (congrArg Host.Outcome.next ?_)
      simp only [driveLine_eq, effect, emitted, ha]
      rfl
  | _ => rfl

/-- An operation that gives a next state is one that completes. -/
theorem completes_of_exec {s t : State} {i : Instr} (h : exec i s = .next t) : completes s i = true := by
  cases i with
  | badWidth z a wdata =>
    rw [exec_badWidth] at h
    obtain ⟨-, he⟩ | ⟨_, _, -, -, he⟩ | ⟨dev, off, hd, hp, -⟩ := execBadWidth_cases z a wdata s
    · simp [he] at h
    · simp [he] at h
    · simp [completes, hd, hp]
  | evRx b =>
    rw [exec_evRx] at h
    obtain ⟨-, -, he⟩ | ⟨hov, -⟩ := execEvRx_cases b s
    · simp [he] at h
    · simpa [completes, imp_iff_not_or] using hov
  | _ => rfl

/-- The three ways an operation does not complete: BADWIDTH outside the windows, BADWIDTH under the faulting policy, a
receive that overruns under its faulting policy. -/
theorem not_completes_cases {s : State} {i : Instr} (h : completes s i = false) :
    (∃ z a wdata, i = .badWidth z a wdata ∧ route s.cfg.overlapWinner a = none) ∨
    (∃ z a wdata, i = .badWidth z a wdata ∧ (route s.cfg.overlapWinner a).isSome = true ∧
      s.cfg.badWidthPolicy = .fault) ∨
    (∃ b, i = .evRx b ∧ s.serial.rxReady = true ∧ s.cfg.rxOverrunPolicy = .fault) := by
  cases i with
  | badWidth z a wdata =>
    cases hr : route s.cfg.overlapWinner a with
    | none => exact .inl ⟨z, a, wdata, rfl, hr⟩
    | some p =>
      cases hp : s.cfg.badWidthPolicy with
      | fault => exact .inr (.inl ⟨z, a, wdata, rfl, by rw [hr]; rfl, rfl⟩)
      | ignore => simp [completes, hr, hp] at h
  | evRx b => exact .inr (.inr ⟨b, rfl, by simpa [completes] using h⟩)
  | _ => simp [completes] at h

section

variable {s : State} {z : WrongSize} {a : Addr} {wdata : Option Data}

/-- BADWIDTH at an address in neither window is refused. -/
theorem exec_badWidth_outside (h : route s.cfg.overlapWinner a = none) :
    exec (.badWidth z a wdata) s = .refused (.notThisBlock (.access (accessKey (.wrong z) wdata.isSome a))) := by
  simp [execBadWidth, h]

/-- BADWIDTH in a window faults with its key under the faulting policy (20_memory R55). -/
theorem exec_badWidth_faults (h : (route s.cfg.overlapWinner a).isSome = true) (hp : s.cfg.badWidthPolicy = .fault) :
    exec (.badWidth z a wdata) s = .fault (.badWidth (accessKey (.wrong z) wdata.isSome a)) := by
  obtain ⟨r, hr⟩ := Option.isSome_iff_exists.mp h
  simp [execBadWidth, hr, hp]

end

/-- An operation gives a next state exactly where it completes, and that state is its effect. -/
theorem exec_next_iff {s t : State} {i : Instr} : exec i s = .next t ↔ completes s i = true ∧ t = effect s i := by
  constructor
  · intro h
    have hc := completes_of_exec h
    exact ⟨hc, (Host.Outcome.next.inj ((exec_of_completes hc).symm.trans h)).symm⟩
  · rintro ⟨hc, rfl⟩
    exact exec_of_completes hc

/-- The next state of an operation is its effect. -/
theorem eq_effect {s t : State} {i : Instr} (h : exec i s = .next t) : t = effect s i := (exec_next_iff.mp h).2

/-! ### The environment record after a list of events (10_state R34) -/

/-- The byte an event sends. -/
def Event.txByte? : Event → Option Byte
  | .tx b => some b
  | _ => none

/-- The record an event logs. -/
def Event.record? : Event → Option LogRecord
  | .log r => some r
  | _ => none

/-- The records of a list of events are those its log events carry. -/
theorem mem_records_iff {evs : List Event} {r : LogRecord} : r ∈ evs.filterMap Event.record? ↔ Event.log r ∈ evs := by
  have hrec : ∀ ev : Event, ev.record? = some r ↔ ev = .log r := by
    rintro (_ | _ | _ | _) <;> simp [Event.record?]
  simp [hrec]

/-- The environment record after a list of events: the bytes and the records appended in order, the notifications and
the assertions counted, the aggregator's output high once asserted and never lowered, the line levels as they were. -/
theorem foldl_recordEvent (evs : List Event) (e : Env) :
    evs.foldl recordEvent e =
      { tx := e.tx ++ evs.filterMap Event.txByte?
        accepts := e.accepts + evs.count .acceptInput
        log := e.log ++ evs.filterMap Event.record?
        aggIn := e.aggIn
        aggOut := e.aggOut || decide (.assertLine .aggOut ∈ evs)
        aggAsserts := e.aggAsserts + evs.count (.assertLine .aggOut)
        timerAsserts := e.timerAsserts + evs.count (.assertLine .timerOut) } := by
  induction evs generalizing e with
  | nil => simp
  | cons ev evs ih =>
    rcases ev with _ | _ | _ | ⟨_ | _⟩ <;>
      simp [ih, List.filterMap_cons, Event.txByte?, Event.record?, Nat.add_assoc, Nat.add_comm 1]

/-! ### What the events of one operation are -/

section

variable (s : State) (i : Instr)

/-- An operation asserts the aggregator's output at most once, and exactly where the spec names it. -/
theorem count_aggOut_emitted :
    (emitted s i).count (.assertLine .aggOut) = if assertsAggOut s i then 1 else 0 := by
  cases i with
  | badWidth z a wdata => cases h : wrongWidthRecord s a wdata <;> simp [emitted, assertsAggOut, h]
  | evLower l => cases h : s.cfg.aggAssertOnLower <;> simp [emitted, assertsAggOut, h]
  | _ => simp [emitted, assertsAggOut]

/-- The events of an operation hold an assertion of the aggregator's output exactly where it asserts it. -/
theorem aggOut_mem_emitted_iff : Event.assertLine .aggOut ∈ emitted s i ↔ assertsAggOut s i = true := by
  rw [← List.count_pos_iff, count_aggOut_emitted]
  cases assertsAggOut s i <;> simp

variable {s i}

/-- What an operation logs carries data exactly when it is of a write (40_serial R100). -/
theorem data_of_mem_emitted {r : LogRecord} (h : Event.log r ∈ emitted s i) : r.v.isSome = true ↔ r.dir = .write := by
  cases i with
  | badWidth z a wdata =>
    cases hr : route s.cfg.overlapWinner a with
    | none => simp [emitted, wrongWidthRecord, hr] at h
    | some p =>
      obtain rfl : r = logRecord p.1 p.2 (wdata.map deviceData) := by simpa [emitted, wrongWidthRecord, hr] using h
      exact logRecord_data _ _ _
  | evLower l => cases ha : s.cfg.aggAssertOnLower <;> simp [emitted, ha] at h
  | _ => simp [emitted] at h <;> simp [h]

/-- Under the event mode no operation changes an input line level (41_aggregator R139). -/
theorem aggInAfter_event (h : s.cfg.aggInputMode = .event) : aggInAfter s i = s.env.aggIn := by
  cases i <;> simp [aggInAfter, h]

end

/-! ### The fields of the next state -/

section

variable {s t : State} {i : Instr} (h : exec i s = .next t)

include h

/-- No operation changes the settings, the boot context or the schedule. -/
theorem exec_frame : t.cfg = s.cfg ∧ t.boot = s.boot ∧ t.schedule = s.schedule := by
  rw [eq_effect h]
  exact ⟨rfl, rfl, rfl⟩

/-- The aggregator's field after an operation. -/
theorem exec_agg : t.agg = { pending := pendingAfter s i } := by rw [eq_effect h, effect_agg]

/-- The input line levels after an operation. -/
theorem exec_aggIn : t.env.aggIn = aggInAfter s i := by rw [eq_effect h, effect_env, foldl_recordEvent]

/-- The value an operation returned and the events it emitted. -/
theorem exec_out : t.out = { ret := returned s i, events := emitted s i } := by rw [eq_effect h, effect_out]

/-- The environment record of the next state is the record before with the emitted events added. -/
theorem exec_env : t.env = t.out.events.foldl recordEvent { s.env with aggIn := aggInAfter s i } := by
  rw [eq_effect h, effect_env, effect_out]

/-- The log after an operation. -/
theorem exec_log : t.env.log = s.env.log ++ (emitted s i).filterMap Event.record? := by
  rw [eq_effect h, effect_env, foldl_recordEvent]

/-- The count of the aggregator's assertions after an operation. -/
theorem exec_aggAsserts : t.env.aggAsserts = s.env.aggAsserts + if assertsAggOut s i then 1 else 0 := by
  rw [eq_effect h, effect_env, foldl_recordEvent, count_aggOut_emitted]

/-- The aggregator's output after an operation. -/
theorem exec_aggOut : t.env.aggOut = (s.env.aggOut || assertsAggOut s i) := by
  rw [eq_effect h, effect_env, foldl_recordEvent]
  simp [aggOut_mem_emitted_iff]

end

/-! ### The environment record, the flags and the aggregator's lines: their statements -/

/-- Settles O44: the record is the fold of the events the result lists. -/
theorem environmentRecordOnlyGrowsByTheEmittedEvents : Obligations.EnvironmentRecordOnlyGrowsByTheEmittedEvents := by
  intro i s t h
  rw [exec_env h, foldl_recordEvent]
  exact ⟨rfl, rfl, rfl, rfl, rfl, fun hm => aggInAfter_event hm⟩

/-- Settles O34. -/
theorem aggregatorOutputIsAssertedAndNeverLowered : Obligations.AggregatorOutputIsAssertedAndNeverLowered :=
  fun _ _ _ h => ⟨exec_aggAsserts h, exec_aggOut h⟩

/-- A pending bit after an operation under the event mode: set where its line was raised, kept where it was not cleared
(41_aggregator R132, R135). -/
theorem exec_pending_iff {i : Instr} {s t : State} (h : exec i s = .next t) (hm : s.cfg.aggInputMode = .event)
    (l : Line) :
    t.agg.pending.getLsbD l.toNat = true ↔
      i = .evRaise l ∨ (s.agg.pending.getLsbD l.toNat = true ∧ clearsLine l i = false) := by
  rw [exec_agg h]
  have hl := l.isLt
  cases i with
  | pendingWr v => simp [pendingAfter, hm, pendingAfterWrite_event, clearsLine, ackOperand, hl]
  | evRaise j => simp [pendingAfter, clearsLine, lineBit_getLsbD, or_comm, eq_comm (a := l)]
  | evReset => simp [pendingAfter, clearsLine]
  | _ => simp [pendingAfter, clearsLine]

/-- What clears a line is a PENDING write with a 1 in its bit, or a reset. -/
theorem clearsLine_iff (l : Line) (i : Instr) :
    clearsLine l i = true ↔ (∃ v, i = .pendingWr v ∧ v.getLsbD l.toNat = true) ∨ i = .evReset := by
  cases i <;> simp [clearsLine]

/-- `rxReady` becomes set only by a receive (10_state R35). -/
theorem evRx_of_exec_sets_rxReady {i : Instr} {s t : State} (h : exec i s = .next t) (hs : s.serial.rxReady = false)
    (ht : t.serial.rxReady = true) : ∃ b, i = .evRx b := by
  rw [exec_serial h] at ht
  cases i with
  | evRx b => exact ⟨b, rfl⟩
  | rxbyteRd | evReset => cases ht
  | _ => exact absurd (hs.symm.trans ht) (by decide)

/-- `rxReady` becomes clear only by an RXBYTE read or a reset (10_state R35). -/
theorem rxbyteRd_or_evReset_of_exec_clears_rxReady {i : Instr} {s t : State} (h : exec i s = .next t)
    (hs : s.serial.rxReady = true) (ht : t.serial.rxReady = false) : i = .rxbyteRd ∨ i = .evReset := by
  rw [exec_serial h] at ht
  cases i with
  | rxbyteRd => exact .inl rfl
  | evReset => exact .inr rfl
  | evRx b => cases ht
  | _ => exact absurd (hs.symm.trans ht) (by decide)

/-- Settles O25: a pending bit by `exec_pending_iff`. -/
theorem statusFlagsChangeOnlyByTheirRules : Obligations.StatusFlagsChangeOnlyByTheirRules := by
  refine ⟨fun _ _ _ => evRx_of_exec_sets_rxReady, fun _ _ _ => rxbyteRd_or_evReset_of_exec_clears_rxReady,
    fun i s t l h hm hs ht => ?_, fun i s t l h hm hs ht => ?_⟩
  · obtain hraise | ⟨hold, -⟩ := (exec_pending_iff h hm l).mp ht
    · exact hraise
    · simp [hs] at hold
  · rw [← clearsLine_iff]
    by_contra hc
    have hkeep := (exec_pending_iff h hm l).mpr (.inr ⟨hs, by simpa using hc⟩)
    simp [ht] at hkeep

end Sys2Proof.Machine

/-! ## Runs of operations (60_exceptions section 5): flow control, the pending bits, the invariant, the schedule -/

namespace Sys2Proof.Machine

open Sys2Proof.Config

/-! ### Receive flow control (70_reset section 3) -/

/-- A run of operations that completes: its first operation completes, and the rest run from the state it leaves. -/
theorem runInstrs_cons_next {i : Instr} {is : List Instr} {s t : State} (h : runInstrs (i :: is) s = .next t) :
    ∃ u, exec i s = .next u ∧ runInstrs is u = .next t := by
  rw [runInstrs] at h
  cases hi : exec i s with
  | next u => exact ⟨u, rfl, by rwa [hi] at h⟩
  | fault f => simp [hi] at h
  | refused r => simp [hi] at h

/-- The bytes one operation takes: the low byte of an RXBYTE read made while a byte is pending. -/
def takenBy (i : Instr) (s t : State) : List Byte :=
  if i = .rxbyteRd ∧ s.serial.rxReady = true then t.out.ret.toList.map lowByte else []

/-- The bytes a run takes are those of its first operation, then those of the rest. -/
theorem bytesTaken_cons {i : Instr} {is : List Instr} {s u : State} (h : exec i s = .next u) :
    bytesTaken (i :: is) s = takenBy i s u ++ bytesTaken is u := by
  simp [bytesTaken, h, takenBy]

/-- One operation that keeps the duty of flow control loses no byte: what was pending and what is delivered is what is
taken and what is pending afterwards. -/
theorem unread_append_received {i : Instr} {s u : State} (hk : keepsFlowControl s i = true) (h : exec i s = .next u) :
    unread s ++ (receivedByte i).toList = takenBy i s u ++ unread u := by
  have hser := exec_serial h
  have hout := exec_out h
  cases i with
  | rxbyteRd => cases hr : s.serial.rxReady <;>
      simp [unread, takenBy, hr, hser, hout, serialAfter, returned, receivedByte]
  | evRx b =>
    have hr : s.serial.rxReady = false := by simpa [keepsFlowControl, canAccept] using hk
    simp [unread, takenBy, hr, hser, serialAfter, receivedByte]
  | evReset => simp [keepsFlowControl] at hk
  | _ => simp [unread, takenBy, hser, serialAfter, receivedByte]

/-- The bytes delivered in a run are those of its first operation, then those of the rest. -/
theorem delivered_cons (i : Instr) (is : List Instr) :
    delivered (i :: is) = (receivedByte i).toList ++ delivered is := by
  cases h : receivedByte i <;> simp [delivered, h]

/-- Over a run that keeps the duty of flow control no byte is lost, repeated or reordered. -/
theorem unread_append_delivered (is : List Instr) :
    ∀ s t : State, flowControlled is s → runInstrs is s = .next t →
      unread s ++ delivered is = bytesTaken is s ++ unread t := by
  induction is with
  | nil =>
    intro s t _ h
    obtain rfl : s = t := by simpa [runInstrs] using h
    simp [delivered, bytesTaken]
  | cons i is ih =>
    intro s t hf h
    obtain ⟨u, hu, ht⟩ := runInstrs_cons_next h
    obtain ⟨hk, hrest⟩ := hf
    rw [hu] at hrest
    calc unread s ++ delivered (i :: is)
        = (unread s ++ (receivedByte i).toList) ++ delivered is := by rw [delivered_cons, List.append_assoc]
      _ = takenBy i s u ++ (unread u ++ delivered is) := by rw [unread_append_received hk hu, List.append_assoc]
      _ = bytesTaken (i :: is) s ++ unread t := by rw [ih u t hrest ht, bytesTaken_cons hu, List.append_assoc]

/-- Settles O26: the run by induction, one operation at a time. -/
theorem honouredFlowControlLosesNoByte : Obligations.HonouredFlowControlLosesNoByte := by
  refine ⟨unread_append_delivered, fun s => ⟨_, exec_rxbyteRd s, rfl⟩, fun i s t h hs ht => ?_, fun b s hs hp => ?_⟩
  · exact rxbyteRd_or_evReset_of_exec_clears_rxReady h (by simpa [canAccept] using hs) (by simpa [canAccept] using ht)
  · exact ⟨_, exec_evRx_stores s (by simp [hp]), rfl⟩

/-! ### Pending bits over a run (10_state section 4) -/

/-- Whether the list raises line `l` and clears it in no later operation. -/
def RaisedAndKept (l : Line) (is : List Instr) : Prop :=
  ∃ before after : List Instr, is = before ++ .evRaise l :: after ∧ ∀ i ∈ after, clearsLine l i = false

/-- A line is raised and kept by a list where it is by the tail, or by its head with no clearing after it. -/
theorem raisedAndKept_cons (l : Line) (i : Instr) (is : List Instr) :
    RaisedAndKept l (i :: is) ↔ RaisedAndKept l is ∨ (i = .evRaise l ∧ ∀ j ∈ is, clearsLine l j = false) := by
  constructor
  · rintro ⟨before, after, heq, hkeep⟩
    cases before with
    | nil =>
      obtain ⟨rfl, rfl⟩ : i = .evRaise l ∧ is = after := by simpa using heq
      exact .inr ⟨rfl, hkeep⟩
    | cons b before =>
      obtain ⟨-, rfl⟩ : i = b ∧ is = before ++ .evRaise l :: after := by simpa using heq
      exact .inl ⟨before, after, rfl, hkeep⟩
  · rintro (⟨before, after, rfl, hkeep⟩ | ⟨rfl, hkeep⟩)
    · exact ⟨i :: before, after, rfl, hkeep⟩
    · exact ⟨[], is, rfl, hkeep⟩

/-- A run that completes leaves the settings as they were. -/
theorem runInstrs_cfg (is : List Instr) : ∀ {s t : State}, runInstrs is s = .next t → t.cfg = s.cfg := by
  induction is with
  | nil =>
    intro s t h
    obtain rfl : s = t := by simpa [runInstrs] using h
    rfl
  | cons i is ih =>
    intro s t h
    obtain ⟨u, hu, ht⟩ := runInstrs_cons_next h
    rw [ih ht, (exec_frame hu).1]

/-- The bit of a line after a run under the event mode: the line was raised and not cleared since, or was pending at the
start and never cleared. -/
theorem pending_after_run_iff (l : Line) (is : List Instr) :
    ∀ {s t : State}, s.cfg.aggInputMode = .event → runInstrs is s = .next t →
      (t.agg.pending.getLsbD l.toNat = true ↔
        RaisedAndKept l is ∨ (s.agg.pending.getLsbD l.toNat = true ∧ ∀ i ∈ is, clearsLine l i = false)) := by
  induction is with
  | nil =>
    intro s t _ h
    obtain rfl : s = t := by simpa [runInstrs] using h
    simp [RaisedAndKept]
  | cons i is ih =>
    intro s t hm h
    obtain ⟨u, hu, ht⟩ := runInstrs_cons_next h
    have hmu : u.cfg.aggInputMode = .event := by rw [(exec_frame hu).1, hm]
    rw [ih hmu ht, exec_pending_iff hu hm l, raisedAndKept_cons, List.forall_mem_cons, or_and_right, and_assoc,
      or_assoc]

/-- Settles O33. -/
theorem pendingBitMeansRaisedAndNotCleared : Obligations.PendingBitMeansRaisedAndNotCleared :=
  fun is _ _ l hm h => pending_after_run_iff l is hm h

/-- A list of raises clears no line. -/
theorem clearsLine_of_mem_raises (l : Line) (ls : List Line) : ∀ i ∈ ls.map Instr.evRaise, clearsLine l i = false := by
  simp [clearsLine]

/-- A list of raises raises and keeps exactly its lines. -/
theorem raisedAndKept_raises_iff (l : Line) (ls : List Line) : RaisedAndKept l (ls.map .evRaise) ↔ l ∈ ls := by
  induction ls with
  | nil => simp [RaisedAndKept]
  | cons j ls ih =>
    rw [List.map_cons, raisedAndKept_cons, ih, and_iff_left (clearsLine_of_mem_raises l ls), List.mem_cons, or_comm]
    simp [eq_comm]

/-- The write of a pending mask clears exactly its lines. -/
theorem clearsLine_pendingWr_zextMask (l : Line) (m : LineMask) :
    clearsLine l (.pendingWr (zextMask m)) = m.getLsbD l.toNat := by
  have hl : l.toNat < 16 := by omega
  simp [clearsLine, zextMask, hl]

/-- Settles O35: the raises between the read and the write back by the run's law, the write back by one operation's. -/
theorem writingBackTheReadValueKeepsLaterRaises : Obligations.WritingBackTheReadValueKeepsLaterRaises := by
  intro s r u ls v l hm hread hv hrun
  obtain rfl : r = returnValue (.two (zextMask s.agg.pending)) (startStep s) := (Host.Outcome.next.inj hread).symm
  obtain rfl : zextMask s.agg.pending = v := by simpa using hv
  have hmu : u.cfg.aggInputMode = .event := by rw [runInstrs_cfg _ hrun]; exact hm
  refine ⟨_, exec_pendingWr u _, ?_⟩
  rw [exec_pending_iff (exec_pendingWr u _) hmu l, pending_after_run_iff l (ls.map .evRaise) (by exact hm) hrun,
    raisedAndKept_raises_iff, and_iff_left (clearsLine_of_mem_raises l ls), clearsLine_pendingWr_zextMask]
  cases hbit : s.agg.pending.getLsbD l.toNat <;> simp [hbit]

/-! ### The invariant of the block -/

/-- The invariant says nothing of the schedule. -/
theorem BlockInv.withSchedule {s : State} (h : BlockInv s) (sch : List Input) : BlockInv { s with schedule := sch } :=
  ⟨h.lastTxByte_zero, h.aggOut_iff, h.aggIn_event, h.resetPc, h.log_data⟩

/-- Every operation that completes keeps the invariant. -/
theorem exec_keeps_BlockInv {i : Instr} {s t : State} (hs : BlockInv s) (h : exec i s = .next t) : BlockInv t := by
  obtain ⟨hcfg, hboot, -⟩ := exec_frame h
  constructor
  case lastTxByte_zero => rw [exec_lastTxByte h, hs.lastTxByte_zero, ite_self]
  case aggOut_iff =>
    rw [exec_aggOut h, exec_aggAsserts h, Bool.or_eq_true, hs.aggOut_iff]
    cases assertsAggOut s i <;> simp
  case aggIn_event =>
    intro hm
    rw [hcfg] at hm
    rw [exec_aggIn h, aggInAfter_event hm, hs.aggIn_event hm]
  case resetPc =>
    rw [hboot, eq_effect h, effect_cpuResetPc, hs.resetPc, ite_self]
  case log_data =>
    rw [exec_log h]
    intro r hr
    obtain hold | hnew := List.mem_append.mp hr
    · exact hs.log_data r hold
    · exact data_of_mem_emitted (mem_records_iff.mp hnew)

/-- Settles O48: a step waits, or runs one operation. -/
theorem everyStepKeepsTheBlockInvariant : Obligations.EveryStepKeepsTheBlockInvariant := by
  intro s t hs h
  obtain ⟨-, rfl⟩ | ⟨_, rest, i, -, -, hi⟩ := step_next_cases h
  · exact hs
  · exact exec_keeps_BlockInv (hs.withSchedule rest) hi

/-- Settles O49. -/
theorem resetMeetsTheBlockInvariant : Obligations.ResetMeetsTheBlockInvariant :=
  ⟨rfl, by decide, fun _ => rfl, rfl, by decide⟩

/-! ### A step and a schedule -/

/-- A step runs the operation the head of the schedule decodes to. -/
theorem step_of_decode_instr {s : State} {x : Input} {rest : List Input} {i : Instr} (hs : s.schedule = x :: rest)
    (hd : decode s.cfg.overlapWinner x = .instr i) : step s = exec i { s with schedule := rest } := by
  simp [step, takeInput, hs, hd]

/-- A step whose input the decoder rejects is refused for that reason. -/
theorem step_of_decode_rejected {s : State} {x : Input} {rest : List Input} {r : Reject} (hs : s.schedule = x :: rest)
    (hd : decode s.cfg.overlapWinner x = .rejected r) : step s = .refused (refusalOf x r) := by
  simp [step, takeInput, hs, hd]

/-- Settles O9. -/
theorem stepRunsTheDecodedOperation : Obligations.StepRunsTheDecodedOperation :=
  ⟨fun _ _ _ _ => step_of_decode_instr, fun _ _ _ _ => step_of_decode_rejected,
    fun s hs => by simp [step, takeInput, hs]⟩

/-- Settles O47: the operation a step runs keeps the frame. -/
theorem noStepChangesSettingsOrBootContext : Obligations.NoStepChangesSettingsOrBootContext := by
  intro s t h
  obtain ⟨hs, rfl⟩ | ⟨x, rest, i, hs, -, hi⟩ := step_next_cases h
  · simp [hs]
  · obtain ⟨hcfg, hboot, hsch⟩ := exec_frame hi
    exact ⟨hcfg, hboot, by rw [hsch, hs]; rfl⟩

section

variable {M : Host.Core} {n : Nat} {s : M.State}

/-- A run whose first step gives a next state goes on from there. -/
theorem run_succ_of_next {t : M.State} (h : M.step s = .next t) : M.run (n + 1) s = M.run n t := by
  simp only [Host.Core.run, h]

/-- A run stops at a fault of its first step. -/
theorem run_succ_of_fault {f : M.Fault} (h : M.step s = .fault f) : M.run (n + 1) s = .fault f := by
  simp only [Host.Core.run, h]

/-- A run stops at a refusal of its first step. -/
theorem run_succ_of_refused {r : M.Refusal} (h : M.step s = .refused r) : M.run (n + 1) s = .refused r := by
  simp only [Host.Core.run, h]

end

/-- An outcome with its next state's schedule replaced. -/
def withSchedule (sch : List Input) : Host.Outcome State Fault Refusal → Host.Outcome State Fault Refusal
  | .next t => .next { t with schedule := sch }
  | .fault f => .fault f
  | .refused r => .refused r

/-- No operation reads the schedule, which agents outside the block hold. -/
theorem exec_withSchedule (i : Instr) (s : State) (sch : List Input) :
    exec i { s with schedule := sch } = withSchedule sch (exec i s) := by
  cases hc : completes s i with
  | true => rw [exec_of_completes hc, exec_of_completes (s := { s with schedule := sch }) hc]; rfl
  | false =>
    obtain ⟨z, a, wdata, rfl, hr⟩ | ⟨z, a, wdata, rfl, hr, hp⟩ | ⟨b, rfl, hr, hp⟩ := not_completes_cases hc
    · rw [exec_badWidth_outside hr, exec_badWidth_outside (s := { s with schedule := sch }) hr]; rfl
    · rw [exec_badWidth_faults hr hp, exec_badWidth_faults (s := { s with schedule := sch }) hr hp]; rfl
    · rw [exec_evRx_overruns s hr hp, exec_evRx_overruns { s with schedule := sch } hr hp]; rfl

/-- Settles O50: by induction on the operations, each step decoding the encoding of the next. -/
theorem runningASchedulePerformsItsOperations : Obligations.RunningASchedulePerformsItsOperations := by
  intro is rest
  induction is with
  | nil =>
    intro s _ hs
    obtain rfl : s.schedule = rest := hs
    rfl
  | cons i is ih =>
    intro s hwf hs
    obtain ⟨hi, his⟩ := List.forall_mem_cons.mp hwf
    have hstep : step s = exec i { s with schedule := is.map encode ++ rest } :=
      step_of_decode_instr hs (decodeOfEncodeIsTheOperation _ i hi)
    have hrest : exec i { s with schedule := rest } = withSchedule rest (step s) := by
      rw [hstep]
      exact exec_withSchedule i { s with schedule := is.map encode ++ rest } rest
    rw [runInstrs, hrest]
    cases ht : step s with
    | next t =>
      obtain ⟨hcfg, -, hsch⟩ := exec_frame (hstep ▸ ht)
      exact (run_succ_of_next ht).trans (ih t (by rwa [hcfg]) hsch)
    | fault f => exact run_succ_of_fault ht
    | refused r => exact run_succ_of_refused ht

end Sys2Proof.Machine

/-! ## The operations one by one: the serial device, the aggregator, the width, the timer, the reset -/

namespace Sys2Proof.Machine

open Sys2Proof.Config

/-! ### The serial device (40_serial sections 2 and 3) -/

/-- Settles O17. -/
theorem rxbyteReadTakesTheByte : Obligations.RxbyteReadTakesTheByte := by
  refine ⟨fun w d => decode_serialAccess w false 4#4 d (by simp), fun s => ?_⟩
  rw [exec_rxbyteRd, zextByte_eq_append]
  rfl

/-- Settles O20. -/
theorem txbyteWriteSendsOneByte : Obligations.TxbyteWriteSendsOneByte :=
  ⟨fun w d => decode_serialAccess w true 6#4 d (by simp), fun v s => exec_txbyteWr s v⟩

/-- The key of a 2-byte access of a serial offset, as the access table writes it: `sz` 01, no reserved bit, the
direction, the address. -/
theorem serialKey_eq_append (off : Offset) :
    accessKey .two false (serialAddr off) = 0b0100#4 ++ (0xF0000008#32 + (0#28 ++ off)) ∧
      accessKey .two true (serialAddr off) = 0b0101#4 ++ (0xF0000008#32 + (0#28 ++ off)) := by
  revert off
  decide

/-- A 2-byte access of an undefined serial offset decodes to the undefined access of that offset (40_serial R109,
R110). -/
theorem decode_undefinedSerialAccess {w : OverlapWinner} {off : Offset} (write : Bool) (d : Data)
    (hreg : off ≠ 0#4 ∧ off ≠ 2#4 ∧ off ≠ 4#4 ∧ off ≠ 6#4) (hw : off = 8#4 ∨ off = 9#4 → w = .serial) :
    decode w (.access (accessKey .two write (serialAddr off)) d) =
      .instr (if write then .serialUndefWr off (deviceData d) else .serialUndefRd off) := by
  rw [decode_serialAccess w write off d hw, serialInstr_of_undefined hreg]

/-- Settles O21. -/
theorem undefinedSerialReadReturnsZero : Obligations.UndefinedSerialReadReturnsZero := by
  refine ⟨fun w off d h0 h2 h4 h6 hw => ?_, fun off s => exec_serialUndefRd s off⟩
  rw [← (serialKey_eq_append off).1]
  exact decode_undefinedSerialAccess false d ⟨h0, h2, h4, h6⟩ hw

/-- Settles O22. -/
theorem undefinedSerialWriteIsOnlyLogged : Obligations.UndefinedSerialWriteIsOnlyLogged := by
  refine ⟨fun w off d h0 h2 h4 h6 hw => ?_, fun off v s => ?_⟩
  · rw [← (serialKey_eq_append off).2]
    exact decode_undefinedSerialAccess true d ⟨h0, h2, h4, h6⟩ hw
  · rw [exec_serialUndefWr, ignoredWrite_startStep]

/-! ### The aggregator (41_aggregator sections 2 and 3) -/

/-- The pending mask after a write, in both input modes at once (41_aggregator R132, R139). -/
theorem pendingAfterWrite_eq (mode : AggInputMode) (aggIn p m : LineMask) :
    pendingAfterWrite mode aggIn p m = (p &&& ~~~(p &&& m)) ||| (if mode = .level then aggIn else 0#4) := by
  cases mode <;> simp [pendingAfterWrite]

/-- Settles O28. -/
theorem pendingWriteClearsTheIntersection : Obligations.PendingWriteClearsTheIntersection := by
  refine ⟨fun d => decode_aggAccess true 0#4 d (.inl rfl), fun v s => ?_, clear_intersection⟩
  rw [← ackOperand, ← pendingAfterWrite_eq, exec_pendingWr]
  rfl

/-- Settles O29. -/
theorem undefinedAggregatorReadReturnsZero : Obligations.UndefinedAggregatorReadReturnsZero :=
  ⟨fun d => decode_aggAccess false 1#4 d (.inr rfl), fun s => exec_aggUndefRd s⟩

/-- Settles O30. -/
theorem undefinedAggregatorWriteIsOnlyLogged : Obligations.UndefinedAggregatorWriteIsOnlyLogged := by
  refine ⟨fun d => decode_aggAccess true 1#4 d (.inr rfl), fun v s => ?_⟩
  rw [exec_aggUndefWr, ignoredWrite_startStep]

/-- The keys of a raise and of a lower, as the event table writes them: 0x2000 | l and 0x3000 | l. -/
theorem lineKey_eq_append (l : Line) :
    eventKey 2#4 (linePayload l) = 0b00100000000000#14 ++ l ∧
      eventKey 3#4 (linePayload l) = 0b00110000000000#14 ++ l := by
  revert l
  decide

/-- Settles O31. -/
theorem raiseSetsItsPendingBit : Obligations.RaiseSetsItsPendingBit := by
  refine ⟨fun w l => ?_, fun l s => ⟨_, exec_of_completes rfl, fun j => ?_, fun j => ?_, ?_⟩⟩
  · rw [← (lineKey_eq_append l).1]
    exact decodeOfEncodeIsTheOperation w (.evRaise l) rfl
  · simp [pendingAfter, lineBit_getLsbD]
  · cases hm : s.cfg.aggInputMode <;> simp [emitted, aggInAfter, hm, lineBit_getLsbD]
  · rfl

/-- Clearing a line's bit in a mask leaves the others. -/
theorem getLsbD_and_not_lineBit (m : LineMask) (l j : Line) :
    (m &&& ~~~(lineBit l)).getLsbD j.toNat = (m.getLsbD j.toNat && !decide (j = l)) := by
  have hj : j.toNat < 4 := j.isLt
  rw [BitVec.getLsbD_and, BitVec.getLsbD_not, lineBit_getLsbD, decide_eq_true hj, Bool.true_and]

/-- Settles O32. -/
theorem lowerKeepsThePendingBits : Obligations.LowerKeepsThePendingBits := by
  refine ⟨fun w l => ?_, fun l s => ⟨_, exec_of_completes rfl, fun j => ?_, ?_⟩⟩
  · rw [← (lineKey_eq_append l).2]
    exact decodeOfEncodeIsTheOperation w (.evLower l) rfl
  · rw [effect_env, foldl_recordEvent]
    cases hm : s.cfg.aggInputMode with
    | event => simp [aggInAfter, hm]
    | level => simp only [aggInAfter, hm, if_true, getLsbD_and_not_lineBit, decide_true, Bool.and_true]
  · cases ha : s.cfg.aggAssertOnLower <;> simp [effect, emitted, ha, serialAfter, pendingAfter, returned]

/-! ### Accesses of a wrong width (20_memory section 2) -/

/-- Settles O36. -/
theorem wrongWidthFaults : Obligations.WrongWidthFaults := by
  intro s z a wdata hp hlo hhi
  rw [exec_badWidth_faults ((route_isSome_iff _ a).mpr ⟨hlo, hhi⟩) hp]
  cases z <;> cases wdata <;> rfl

/-- The address of a serial offset as a number. -/
theorem serialAddr_toNat (off : Offset) : (serialAddr off).toNat = 0xF0000008 + off.toNat := by
  revert off
  decide

/-- Which device answers an address, and its offset there, with the literal addresses (20_memory R51, R54). -/
theorem route_some_literal {w : OverlapWinner} {a : Addr} {dev : Dev} {off : Offset} (h : route w a = some (dev, off)) :
    if w = .aggregator ∧ (a = 0xF0000010#32 ∨ a = 0xF0000011#32) then
      dev = .agg ∧ off.toNat = a.toNat - 0xF0000010
    else dev = .serial ∧ off.toNat = a.toNat - 0xF0000008 := by
  obtain ⟨rfl, rfl, rfl, rfl | rfl⟩ | ⟨rfl, rfl, hoff⟩ := route_some_cases h
  · decide
  · decide
  · rw [if_neg, serialAddr_toNat]
    · exact ⟨rfl, by omega⟩
    · rintro ⟨rfl, haddr⟩
      revert off
      decide

/-- Settles O37. -/
theorem wrongWidthIgnoredIsAnUndefinedAccess : Obligations.WrongWidthIgnoredIsAnUndefinedAccess := by
  intro s z a wdata hp hlo hhi
  obtain ⟨⟨dev, off⟩, hr⟩ := Option.isSome_iff_exists.mp ((route_isSome_iff s.cfg.overlapWinner a).mpr ⟨hlo, hhi⟩)
  have hc : completes s (.badWidth z a wdata) = true := by simp [completes, hr, hp]
  refine ⟨logRecord dev off (wdata.map deviceData), ?_, ?_, ?_, ?_⟩
  · have := route_some_literal hr
    cases wdata <;> exact this
  · cases wdata <;> rfl
  · cases wdata <;> rfl
  · rw [exec_of_completes hc]
    simp only [effect, emitted, wrongWidthRecord, hr]
    cases wdata <;> cases z <;> rfl

/-! ### The timer and the CPU's interrupt inputs (42_timer, 60_exceptions section 2) -/

/-- CPU input #1 is the timer line: high exactly under `hold` after an assertion (42_timer R151, 60_exceptions R163). -/
theorem cpuIrqInput_one (s : State) :
    cpuIrqInput s 1 = some (decide (s.cfg.timerLineMode = .hold ∧ s.env.timerAsserts ≠ 0)) := by
  change some (timerIrqLevel s) = _
  cases hm : s.cfg.timerLineMode <;> simp [timerIrqLevel, hm]

/-- CPU input #1 under `hold` is high exactly after an assertion. -/
theorem cpuIrqInput_one_hold {s : State} (h : s.cfg.timerLineMode = .hold) :
    cpuIrqInput s 1 = some true ↔ s.env.timerAsserts ≠ 0 := by
  simp [cpuIrqInput_one, h]

/-- No operation takes back an assertion of the timer's output. -/
theorem exec_timerAsserts {i : Instr} {s t : State} (h : exec i s = .next t) :
    t.env.timerAsserts = s.env.timerAsserts + (emitted s i).count (.assertLine .timerOut) := by
  rw [eq_effect h, effect_env, foldl_recordEvent]

/-- Settles O39. -/
theorem timerLineLevelFollowsItsMode : Obligations.TimerLineLevelFollowsItsMode := by
  refine ⟨fun s hm => ⟨by rw [hm]; rfl, by simp [cpuIrqInput_one, hm]⟩, fun s t hm h => ⟨by rw [hm]; rfl, ?_⟩,
    fun i s t hm hs h => ?_⟩
  · rw [cpuIrqInput_one_hold (by rw [(exec_frame h).1, hm]), exec_timerAsserts h]
    simp [emitted]
  · rw [cpuIrqInput_one_hold hm] at hs
    rw [cpuIrqInput_one_hold (by rw [(exec_frame h).1, hm]), exec_timerAsserts h]
    omega

/-- An operation of the aggregator leaves the serial fields and what the serial and the timer side sent out. -/
theorem aggOp_keeps_serial_side {i : Instr} {s t : State} (hi : isAggOp i = true) (h : exec i s = .next t) :
    t.serial = s.serial ∧ t.env.tx = s.env.tx ∧ t.env.accepts = s.env.accepts ∧
      t.env.timerAsserts = s.env.timerAsserts := by
  rw [eq_effect h, effect_env, foldl_recordEvent]
  cases i with
  | pendingRd => simp [emitted, serialAfter]
  | pendingWr v => simp [emitted, serialAfter, Event.txByte?]
  | aggUndefRd => simp [emitted, serialAfter, Event.txByte?]
  | aggUndefWr v => simp [emitted, serialAfter, Event.txByte?]
  | evRaise l => simp [emitted, serialAfter, Event.txByte?]
  | evLower l => cases ha : s.cfg.aggAssertOnLower <;> simp [emitted, ha, serialAfter, Event.txByte?]
  | _ => simp [isAggOp] at hi

/-- The levels the block drives are functions of the serial fields, the timer's mode and its count of assertions. -/
theorem cpuIrqInput_congr {s t : State} (n : Nat) (hser : t.serial = s.serial)
    (htim : t.env.timerAsserts = s.env.timerAsserts) (hcfg : t.cfg = s.cfg) : cpuIrqInput t n = cpuIrqInput s n := by
  simp only [cpuIrqInput, serialIrqLevel, timerIrqLevel, hser, htim, hcfg]

/-- Settles O51. -/
theorem interruptLinesAreRoutedAsWired : Obligations.InterruptLinesAreRoutedAsWired := by
  refine ⟨fun s => ⟨rfl, cpuIrqInput_one s, fun n h1 h4 => ?_⟩, fun i s t n hi h => ?_⟩
  · simp [cpuIrqInput, serialIrqInput, timerIrqInput, h1, h4]
  · obtain ⟨hser, -, -, htim⟩ := aggOp_keeps_serial_side hi h
    exact cpuIrqInput_congr n hser htim (exec_frame h).1

/-! ### The reset (70_reset sections 1 and 2) -/

/-- Settles O40. -/
theorem resetZeroesTheDevices : Obligations.ResetZeroesTheDevices :=
  ⟨fun w => decodeOfEncodeIsTheOperation w .evReset rfl, fun s =>
    ⟨_, exec_evReset s, rfl, ⟨_, exec_rxreadyRd _, rfl⟩, ⟨_, exec_txreadyRd _, rfl⟩, ⟨_, exec_rxbyteRd _, rfl⟩,
      ⟨_, exec_txbyteRd _, rfl⟩, ⟨_, exec_pendingRd _, rfl⟩⟩⟩

/-! ### All operations at once -/

/-- Settles O41: the record each of the seven leaves is the one `ignoredRecord` names. -/
theorem loggedAndIgnoredAccessesComplete : Obligations.LoggedAndIgnoredAccessesComplete := by
  intro i s rec hrec
  cases i with
  | rxreadyWr v | txreadyWr v | rxbyteWr v | serialUndefRd off | serialUndefWr off v | aggUndefRd | aggUndefWr v =>
    obtain rfl := Option.some.inj hrec
    rfl
  | _ => cases hrec

/-- Settles O42. -/
theorem readsAreZeroExtended : Obligations.ReadsAreZeroExtended := by
  intro s
  refine ⟨⟨_, exec_rxreadyRd s, ?_⟩, ⟨_, exec_txreadyRd s, rfl⟩, ⟨_, exec_rxbyteRd s, ?_⟩, ⟨_, exec_txbyteRd s, ?_⟩,
    ⟨_, exec_pendingRd s, ?_⟩, fun off => ⟨_, exec_serialUndefRd s off, rfl⟩, ⟨_, exec_aggUndefRd s, rfl⟩⟩
  · rw [zextFlag_eq_ite]
    cases s.serial.rxReady <;> rfl
  all_goals
    rw [BitVec.ofNat_toNat]
    rfl

/-- A second write of the same value to PENDING changes no bit (20_memory section 4). -/
theorem pendingAfterWrite_twice (mode : AggInputMode) (aggIn p m : LineMask) :
    pendingAfterWrite mode aggIn (pendingAfterWrite mode aggIn p m) m = pendingAfterWrite mode aggIn p m := by
  simp only [pendingAfterWrite_eq, clear_intersection]
  generalize (if mode = .level then aggIn else 0#4) = active
  apply BitVec.eq_of_getLsbD_eq
  intro j hj
  simp only [BitVec.getLsbD_or, BitVec.getLsbD_and, BitVec.getLsbD_not, hj, decide_true, Bool.true_and]
  cases p.getLsbD j <;> cases m.getLsbD j <;> cases active.getLsbD j <;> rfl

/-- Settles O43. -/
theorem repeatedAccessesAreIdempotentOrNot : Obligations.RepeatedAccessesAreIdempotentOrNot := by
  refine ⟨?_, fun s t h => ?_, fun v s t h => ?_, fun v s t h => ?_⟩
  · rintro i s t (rfl | rfl | rfl | rfl) h
    all_goals
      obtain rfl := Host.Outcome.next.inj h
      rfl
  · obtain rfl := Host.Outcome.next.inj h
    exact ⟨_, exec_rxbyteRd _, rfl, rfl⟩
  · obtain rfl := Host.Outcome.next.inj h
    exact ⟨_, exec_txbyteWr _ v, List.append_assoc s.env.tx _ _⟩
  · obtain rfl := Host.Outcome.next.inj h
    exact ⟨_, exec_pendingWr _ v, congrArg Agg.mk (pendingAfterWrite_twice _ _ _ _), rfl⟩

/-- An operation that is not the aggregator's leaves its field, but for a reset, and its lines. -/
theorem serialOp_keeps_aggregator {i : Instr} {s t : State} (hi : isAggOp i = false) (h : exec i s = .next t) :
    t.agg = (if i = .evReset then { pending := 0b0000#4 } else s.agg) ∧
      t.env.aggIn = s.env.aggIn ∧ t.env.aggOut = s.env.aggOut ∧ t.env.aggAsserts = s.env.aggAsserts := by
  have hquiet : assertsAggOut s i = false ∧ aggInAfter s i = s.env.aggIn := by
    cases i with
    | pendingWr v | evRaise l | evLower l => simp [isAggOp] at hi
    | _ => exact ⟨rfl, rfl⟩
  rw [exec_agg h, exec_aggIn h, exec_aggOut h, exec_aggAsserts h, hquiet.1, hquiet.2]
  refine ⟨?_, rfl, by simp, rfl⟩
  cases i with
  | pendingWr v | evRaise l => simp [isAggOp] at hi
  | _ => rfl

section

variable {s s' : State} {i : Instr}

/-- Which events an operation emits depends on the settings alone. -/
theorem emitted_congr (hcfg : s.cfg = s'.cfg) : emitted s' i = emitted s i := by
  cases i <;> simp [emitted, wrongWidthRecord, hcfg]

/-- The value an operation of the serial or the timer side returns depends on the serial fields alone. -/
theorem returned_congr_of_serialOp (hi : isAggOp i = false) (hser : s.serial = s'.serial) :
    returned s' i = returned s i := by
  cases i with
  | pendingRd => simp [isAggOp] at hi
  | badWidth z a wdata => cases wdata <;> rfl
  | _ => simp [returned, hser]

/-- Whether an operation completes depends on the serial fields and the settings alone. -/
theorem completes_congr (hser : s.serial = s'.serial) (hcfg : s.cfg = s'.cfg) : completes s' i = completes s i := by
  cases i <;> simp [completes, hser, hcfg]

/-- Every operation of the aggregator completes. -/
theorem completes_of_isAggOp (hi : isAggOp i = true) : completes s i = true := by
  cases i with
  | badWidth z a wdata | evRx b => simp [isAggOp] at hi
  | _ => rfl

/-- The value an operation of the aggregator returns depends on its field alone. -/
theorem returned_congr_of_aggOp (hi : isAggOp i = true) (hagg : s.agg = s'.agg) : returned s' i = returned s i := by
  cases i with
  | rxreadyRd | rxbyteRd | txbyteRd => simp [isAggOp] at hi
  | badWidth z a wdata => cases wdata <;> rfl
  | _ => simp [returned, hagg]

/-- The aggregator's field and its line levels after an operation depend on them and on the settings alone. -/
theorem aggregator_congr (hagg : s.agg = s'.agg) (hin : s.env.aggIn = s'.env.aggIn) (hcfg : s.cfg = s'.cfg) :
    pendingAfter s' i = pendingAfter s i ∧ aggInAfter s' i = aggInAfter s i := by
  cases i <;> simp [pendingAfter, aggInAfter, hagg, hin, hcfg]

end

/-- Settles O45: what an operation reads is read from the fields of its own side. -/
theorem serialAndAggregatorDoNotInterfere : Obligations.SerialAndAggregatorDoNotInterfere := by
  refine ⟨fun i s s' t hi hser hcfg h => ?_, fun i s s' t hi hagg hin hcfg h => ?_⟩
  · obtain ⟨hmask, haggIn, hout, hcount⟩ := serialOp_keeps_aggregator hi h
    have h' := exec_of_completes ((completes_congr hser hcfg).trans (completes_of_exec h))
    refine ⟨hmask, haggIn, hout, hcount, _, h', ?_, ?_⟩
    · rw [exec_serial h', exec_serial h, hser]
    · rw [exec_out h', exec_out h, emitted_congr hcfg, returned_congr_of_serialOp hi hser]
  · obtain ⟨hserial, htx, haccepts, htimer⟩ := aggOp_keeps_serial_side hi h
    have h' := exec_of_completes (s := s') (completes_of_isAggOp hi)
    obtain ⟨hmask, hlines⟩ := aggregator_congr (i := i) hagg hin hcfg
    refine ⟨hserial, htx, haccepts, htimer, _, h', ?_, ?_, ?_⟩
    · rw [exec_agg h', exec_agg h, hmask]
    · rw [exec_aggIn h', exec_aggIn h, hlines]
    · rw [exec_out h', exec_out h, emitted_congr hcfg, returned_congr_of_aggOp hi hagg]

/-- Settles O46: an operation completes, or is one of the three that do not, of which a well-formed one is not outside
the windows. -/
theorem operationsFaultOnlyWhereTheSpecSays : Obligations.OperationsFaultOnlyWhereTheSpecSays := by
  intro i s hwf
  cases hc : completes s i with
  | true =>
    rw [exec_of_completes hc]
    refine ⟨by simp, by simp, ?_⟩
    rintro (⟨hop, hp⟩ | ⟨hop, hr, hp⟩)
    · cases i with
      | badWidth z a wdata => simp [completes, hp] at hc
      | _ => cases hop
    · cases i with
      | evRx b => simp [completes, hr, hp] at hc
      | _ => cases hop
  | false =>
    obtain ⟨z, a, wdata, rfl, hr⟩ | ⟨z, a, wdata, rfl, hr, hp⟩ | ⟨b, rfl, hr, hp⟩ := not_completes_cases hc
    · cases wdata <;> simp [Instr.wf, hr] at hwf
    · rw [exec_badWidth_faults hr hp]
      simp [Instr.opcode, hp]
    · rw [exec_evRx_overruns s hr hp]
      simp [Instr.opcode, hr, hp]

/-- The value a register access returns has 2 bytes; a write returns none. -/
theorem readBytes_returned_registerInstr (s : State) (dev : Dev) (off : Offset) (write : Bool) (v : HalfWord) :
    (returned s (registerInstr dev off write v)).map readBytes = if write then none else some 2 := by
  cases dev <;> cases write <;> simp only [registerInstr, serialInstr, aggInstr] <;> split_ifs <;> rfl

/-- The width of the value an access returns is the width of its key; a write returns none (30_encoding R80). -/
theorem readBytes_returned_of_decode {w : OverlapWinner} {k : AccessKey} {d : Data} {i : Instr}
    (h : decode w (.access k d) = .instr i) (s : State) :
    (returned s i).map readBytes = if keyWrite k then none else some (2 ^ (k.extractLsb' 34 2).toNat) := by
  rw [← sizeBits_keySize]
  obtain ⟨-, dev, off, -, ⟨hz, rfl⟩ | ⟨z, hz, rfl⟩⟩ := decode_access_cases h
  · rw [readBytes_returned_registerInstr, hz]
    rfl
  · rw [hz, ← readBytes_zeroValue]
    cases keyWrite k <;> rfl

/-- An event returns no value. -/
theorem returned_of_decode_event {w : OverlapWinner} {k : EventKey} {i : Instr}
    (h : decode w (.event k) = .instr i) (s : State) : returned s i = none := by
  obtain ⟨_, -, rfl⟩ | ⟨_, -, rfl⟩ | ⟨_, -, rfl⟩ | ⟨-, rfl⟩ | ⟨-, rfl⟩ := decode_event_cases h <;> rfl

/-- A step with an operation to take that gives a next state ran the operation its head decodes to, and returned that
operation's value. -/
theorem step_ret {s t : State} {x : Input} {rest : List Input} (hs : s.schedule = x :: rest) (h : step s = .next t) :
    ∃ i, decode s.cfg.overlapWinner x = .instr i ∧ t.out.ret = returned { s with schedule := rest } i := by
  obtain ⟨hnil, -⟩ | ⟨y, rest', i, hs', hd, hi⟩ := step_next_cases h
  · simp [hs] at hnil
  · obtain ⟨rfl, rfl⟩ : x = y ∧ rest = rest' := by simpa [hs] using hs'
    exact ⟨i, hd, by rw [exec_out hi]⟩

/-- Settles O57: the value is that of the operation the key decodes to. -/
theorem readsReturnTheirAccessWidth : Obligations.ReadsReturnTheirAccessWidth := by
  refine ⟨fun s t k d rest hs h => ?_, fun s t k rest hs h => ?_⟩
  · obtain ⟨i, hd, hret⟩ := step_ret hs h
    rw [hret]
    exact readBytes_returned_of_decode hd _
  · obtain ⟨i, hd, hret⟩ := step_ret hs h
    rw [hret]
    exact returned_of_decode_event hd _

end Sys2Proof.Machine

/-! ## The decoder against the spec (30_encoding): its order, its refusals, the rows of the opcode table -/

namespace Sys2Proof

open Sys2Proof.Config Sys2Proof.Machine

/-! ### The decode order of an access (30_encoding R86) -/

/-- The width field 01 is the width of 2 bytes. -/
theorem keySize_two {k : AccessKey} (h : k.extractLsb' 34 2 = 1#2) : keySize k = .two := by
  simp [keySize, h]

/-- The width fields other than 01 are the wrong widths. -/
theorem keySize_wrong {k : AccessKey} (h : k.extractLsb' 34 2 ≠ 1#2) :
    keySize k =
      .wrong (if k.extractLsb' 34 2 = 0#2 then .one else if k.extractLsb' 34 2 = 2#2 then .four else .eight) := by
  unfold keySize
  split_ifs <;> rfl

/-- The low byte of the data, as a mask. -/
theorem wrongSizeData_one (d : Data) : wrongSizeData .one d = d &&& 0xFF#64 := by
  have hmask : d.toNat &&& 0xFF = d.toNat % 2 ^ 8 := Nat.and_two_pow_sub_one_eq_mod d.toNat 8
  apply BitVec.eq_of_toNat_eq
  rw [BitVec.toNat_and, show (0xFF#64).toNat = 0xFF from rfl, hmask]
  simp only [wrongSizeData, BitVec.toNat_setWidth]
  omega

/-- The low 4 bytes of the data, as a mask. -/
theorem wrongSizeData_four (d : Data) : wrongSizeData .four d = d &&& 0xFFFFFFFF#64 := by
  have hmask : d.toNat &&& 0xFFFFFFFF = d.toNat % 2 ^ 32 := Nat.and_two_pow_sub_one_eq_mod d.toNat 32
  apply BitVec.eq_of_toNat_eq
  rw [BitVec.toNat_and, show (0xFFFFFFFF#64).toNat = 0xFFFFFFFF from rfl, hmask]
  simp only [wrongSizeData, BitVec.toNat_setWidth]
  omega

/-- The data a wrong width keeps, by the width field (30_encoding R80). -/
theorem wrongSizeData_of_field (sz : BitVec 2) (d : Data) :
    wrongSizeData (if sz = 0#2 then .one else if sz = 2#2 then .four else .eight) d =
      if sz = 0#2 then d &&& 0xFF#64 else if sz = 2#2 then d &&& 0xFFFFFFFF#64 else d := by
  split_ifs
  · exact wrongSizeData_one d
  · exact wrongSizeData_four d
  · rfl

/-- The register of a serial offset by its literal address, the order of 30_encoding R86. -/
theorem registerInstr_serial_literal (off : Offset) (write : Bool) (v : HalfWord) :
    registerInstr .serial off write v =
      if serialAddr off = 0xF0000008#32 then (if write then .rxreadyWr v else .rxreadyRd)
      else if serialAddr off = 0xF000000A#32 then (if write then .txreadyWr v else .txreadyRd)
      else if serialAddr off = 0xF000000C#32 then (if write then .rxbyteWr v else .rxbyteRd)
      else if serialAddr off = 0xF000000E#32 then (if write then .txbyteWr v else .txbyteRd)
      else if write then .serialUndefWr (BitVec.ofNat 4 ((serialAddr off).toNat - 0xF0000008)) v
        else .serialUndefRd (BitVec.ofNat 4 ((serialAddr off).toNat - 0xF0000008)) := by
  have hoff : BitVec.ofNat 4 ((serialAddr off).toNat - 0xF0000008) = off := by
    rw [serialAddr_toNat, Nat.add_sub_cancel_left, BitVec.ofNat_toNat, BitVec.setWidth_eq]
  have haddr : (serialAddr off = 0xF0000008#32 ↔ off = 0#4) ∧ (serialAddr off = 0xF000000A#32 ↔ off = 2#4) ∧
      (serialAddr off = 0xF000000C#32 ↔ off = 4#4) ∧ (serialAddr off = 0xF000000E#32 ↔ off = 6#4) := by
    clear hoff
    revert off
    decide
  simp only [registerInstr, serialInstr, hoff, haddr]

/-- The register of a routed address by its literal address, the order of 30_encoding R86. -/
theorem registerInstr_of_route {w : OverlapWinner} {a : Addr} {dev : Dev} {off : Offset}
    (hr : route w a = some (dev, off)) (write : Bool) (v : HalfWord) :
    registerInstr dev off write v =
      if w = .aggregator ∧ a = 0xF0000010#32 then (if write then .pendingWr v else .pendingRd)
      else if w = .aggregator ∧ a = 0xF0000011#32 then (if write then .aggUndefWr v else .aggUndefRd)
      else if a = 0xF0000008#32 then (if write then .rxreadyWr v else .rxreadyRd)
      else if a = 0xF000000A#32 then (if write then .txreadyWr v else .txreadyRd)
      else if a = 0xF000000C#32 then (if write then .rxbyteWr v else .rxbyteRd)
      else if a = 0xF000000E#32 then (if write then .txbyteWr v else .txbyteRd)
      else if write then .serialUndefWr (BitVec.ofNat 4 (a.toNat - 0xF0000008)) v
        else .serialUndefRd (BitVec.ofNat 4 (a.toNat - 0xF0000008)) := by
  obtain ⟨rfl, rfl, rfl, rfl | rfl⟩ | ⟨rfl, rfl, hoff⟩ := route_some_cases hr
  · rw [if_pos ⟨rfl, rfl⟩]
    rfl
  · rw [if_neg (by decide), if_pos ⟨rfl, rfl⟩]
    rfl
  · have hoverlap : ¬ (w = .aggregator ∧ serialAddr off = 0xF0000010#32) ∧
        ¬ (w = .aggregator ∧ serialAddr off = 0xF0000011#32) := by
      clear hr
      revert off
      cases w <;> decide
    rw [if_neg hoverlap.1, if_neg hoverlap.2]
    exact registerInstr_serial_literal off write v

/-- Settles O6: the spec's conditions one by one, in its order. -/
theorem accessDecodeFollowsTheSpecOrder : Obligations.AccessDecodeFollowsTheSpecOrder := by
  intro w k d
  by_cases hres : k.getLsbD 33 = true
  · rw [if_pos hres, decode_access_reserved hres]
  have hclear : keyReserved k = false := eq_false_of_ne_true hres
  rw [if_neg hres]
  by_cases hout : (k.extractLsb' 0 32).toNat < 0xF0000008 ∨ 0xF0000017 < (k.extractLsb' 0 32).toNat
  · rw [if_pos hout, decode_access_outside hclear (route_eq_none_iff.mpr hout)]
  have hin : (route w (keyAddr k)).isSome = true := Option.isSome_iff_ne_none.mpr (mt route_eq_none_iff.mp hout)
  rw [if_neg hout]
  by_cases hsz : k.extractLsb' 34 2 = 1#2
  · obtain ⟨⟨dev, off⟩, hr⟩ := Option.isSome_iff_exists.mp hin
    rw [if_neg (not_not.mpr hsz), decode_access_two hclear hr (keySize_two hsz), registerInstr_of_route hr]
    simp only [apply_ite Decoded.instr]
    rfl
  · rw [if_pos hsz, decode_access_wrong hclear hin (keySize_wrong hsz), wrongSizeData_of_field]
    rfl

/-! ### What the decoder refuses -/

section

variable {w : OverlapWinner} {k : EventKey}

/-- A set reserved bit of an event key is refused first. -/
theorem decode_event_reserved (h : eventReserved k ≠ 0#4) : decode w (.event k) = .rejected .reservedKeyBit := by
  simp [decode, decodeEvent, h]

/-- An expiry or a reset with a payload is refused (30_encoding R85). -/
theorem decode_event_payload (h : eventReserved k = 0#4) (hk : eventKind k = 4#4 ∨ eventKind k = 5#4)
    (hp : eventPayload k ≠ 0#8) : decode w (.event k) = .rejected .reservedKeyBit := by
  obtain hk | hk := hk <;> simp [decode, decodeEvent, decodeBare, h, hk, hp]

/-- The reserved kinds are refused (30_encoding R85). -/
theorem decode_event_kind (h : eventReserved k = 0#4) (hk : eventKind k = 0#4 ∨ 6 ≤ (eventKind k).toNat) :
    decode w (.event k) = .rejected .reservedEvent := by
  have hkind : eventKind k ≠ 1#4 ∧ eventKind k ≠ 2#4 ∧ eventKind k ≠ 3#4 ∧ eventKind k ≠ 4#4 ∧ eventKind k ≠ 5#4 := by
    revert hk
    generalize eventKind k = kind
    revert kind
    decide
  simp [decode, decodeEvent, h, hkind]

/-- A raise or a lower of line 4 or above is refused (41_aggregator R138). -/
theorem decode_event_line (h : eventReserved k = 0#4) (hk : eventKind k = 2#4 ∨ eventKind k = 3#4)
    (hp : 4 ≤ (eventPayload k).toNat) : decode w (.event k) = .rejected .noSuchLine := by
  have hline : (eventPayload k).extractLsb' 2 6 ≠ 0#6 := by
    revert hp
    generalize eventPayload k = p
    revert p
    decide
  obtain hk | hk := hk <;> simp [decode, decodeEvent, decodeLine, h, hk, hline]

end

/-- Settles O10. -/
theorem accessOutsideTheWindowsIsRefused : Obligations.AccessOutsideTheWindowsIsRefused := by
  intro s k d rest hs hres hout
  refine step_of_decode_rejected hs (decode_access_outside hres (route_eq_none_iff.mpr ?_))
  exact hout.imp id Nat.lt_of_succ_le

/-- Settles O11. -/
theorem keysThatSpellNothingAreRefused : Obligations.KeysThatSpellNothingAreRefused :=
  ⟨fun _ _ _ _ hs h => step_of_decode_rejected hs (decode_access_reserved h),
    fun _ _ _ hs h => step_of_decode_rejected hs (decode_event_reserved h),
    fun _ _ _ hs h hk hp => step_of_decode_rejected hs (decode_event_payload h hk hp),
    fun _ _ _ hs h hk => step_of_decode_rejected hs (decode_event_kind h hk),
    fun _ _ _ hs h hk hp => step_of_decode_rejected hs (decode_event_line h hk hp)⟩

/-- Settles O12. -/
theorem fetchFromAWindowIsRefused : Obligations.FetchFromAWindowIsRefused := by
  intro s a rest hs hlo hhi
  have hwin : inSerialWindow a = true := (inSerialWindow_iff a).mpr ⟨hlo, Nat.le_of_lt_succ hhi⟩
  refine step_of_decode_rejected (r := .fetchFromMmio) hs ?_
  simp [decode, decodeFetch, hwin]

/-- Settles O7: where the serial device wins, no operation of the aggregator's window is well-formed. -/
theorem overlapWinnerDecidesWhoAnswers : Obligations.OverlapWinnerDecidesWhoAnswers := by
  refine ⟨fun d => decode_aggAccess false 0#4 d (.inl rfl), fun d => decode_aggAccess true 0#4 d (.inl rfl),
    fun d => decode_aggAccess false 1#4 d (.inr rfl), fun d => decode_aggAccess true 1#4 d (.inr rfl),
    fun d => decode_serialAccess .serial false 8#4 d fun _ => rfl,
    fun d => decode_serialAccess .serial true 8#4 d fun _ => rfl,
    fun d => decode_serialAccess .serial false 9#4 d fun _ => rfl,
    fun d => decode_serialAccess .serial true 9#4 d fun _ => rfl, fun x i h => ?_⟩
  have hwf := wf_of_decode h
  refine ⟨?_, ?_, ?_, ?_⟩
  · rintro rfl; cases hwf
  · rintro v rfl; cases hwf
  · rintro rfl; cases hwf
  · rintro v rfl; cases hwf

/-- Settles O8: the keys are literals. -/
theorem keysOfTheSpecDecode : Obligations.KeysOfTheSpecDecode := by
  refine ⟨?_, ?_, ?_, ?_, ?_, ?_, ?_⟩ <;> decide

/-! ### The rows of the opcode table (30_encoding R86) -/

/-- Two rows that stand under `w` and whose patterns agree on the bits both masks fix. -/
def Row.mayShareKey {n : Nat} (w : OverlapWinner) (r r' : Row n) : Prop :=
  (r.condition = none ∨ r.condition = some w) ∧ (r'.condition = none ∨ r'.condition = some w) ∧
    r.pattern &&& r'.mask = r'.pattern &&& r.mask

/-- Rows that match one key agree on the bits both masks fix. -/
theorem mayShareKey_of_rowMatches {n : Nat} {w : OverlapWinner} {k : BitVec n} {r r' : Row n}
    (h : rowMatches w k r = true) (h' : rowMatches w k r' = true) : r.mayShareKey w r' := by
  simp only [rowMatches, Bool.and_eq_true, decide_eq_true_eq] at h h'
  refine ⟨h.2, h'.2, ?_⟩
  rw [← h.1, ← h'.1, BitVec.and_assoc, BitVec.and_assoc, BitVec.and_comm r.mask]

/-- No two access rows agree on the bits both masks fix. -/
theorem accessRows_eq_of_mayShareKey (w : OverlapWinner) :
    ∀ r ∈ accessRows, ∀ r' ∈ accessRows, r.mayShareKey w r' → r = r' := by
  unfold Row.mayShareKey
  cases w <;> decide

/-- No two event rows agree on the bits both masks fix. -/
theorem eventRows_eq_of_mayShareKey (w : OverlapWinner) :
    ∀ r ∈ eventRows, ∀ r' ∈ eventRows, r.mayShareKey w r' → r = r' := by
  unfold Row.mayShareKey
  cases w <;> decide

/-- Settles O5. -/
theorem opcodeTableRowsAreDisjoint : Obligations.OpcodeTableRowsAreDisjoint :=
  ⟨fun w _ r r' hr hr' h h' => accessRows_eq_of_mayShareKey w r hr r' hr' (mayShareKey_of_rowMatches h h'),
    fun w _ r r' hr hr' h h' => eventRows_eq_of_mayShareKey w r hr r' hr' (mayShareKey_of_rowMatches h h')⟩

/-- The mnemonic of what was decoded, where an operation was. -/
def Decoded.opcode? : Decoded → Option Opcode
  | .instr i => some i.opcode
  | .rejected _ => none

/-- A decoded operation of a mnemonic, in one equation. -/
theorem exists_instr_opcode_iff (x : Decoded) (o : Opcode) :
    (∃ i, x = .instr i ∧ i.opcode = o) ↔ x.opcode? = some o := by
  cases x <;> simp [Decoded.opcode?]

/-- The mnemonics of the rows a key matches. -/
def rowOpcodes {n : Nat} (rows : List (Row n)) (w : OverlapWinner) (k : BitVec n) : List Opcode :=
  (rows.filter (rowMatches w k)).map Row.opcode

/-- A row of a mnemonic that a key matches, in one membership. -/
theorem exists_rowMatches_iff {n : Nat} (rows : List (Row n)) (w : OverlapWinner) (k : BitVec n) (o : Opcode) :
    (∃ r ∈ rows, rowMatches w k r = true ∧ r.opcode = o) ↔ o ∈ rowOpcodes rows w k := by
  simp [rowOpcodes, and_assoc]

/-- The mnemonic of a register does not depend on the data. -/
theorem opcode_registerInstr (dev : Dev) (off : Offset) (write : Bool) (v v' : HalfWord) :
    (registerInstr dev off write v).opcode = (registerInstr dev off write v').opcode := by
  cases dev <;> cases write <;> simp only [registerInstr, serialInstr, aggInstr] <;> split_ifs <;> rfl

/-- The mnemonic an access key decodes to does not depend on the data. -/
theorem opcode?_decode_access (w : OverlapWinner) (k : AccessKey) (d : Data) :
    (decode w (.access k d)).opcode? = (decode w (.access k 0#64)).opcode? := by
  simp only [decode, decodeAccess]
  split
  · rfl
  · split
    · rfl
    · split
      · exact congrArg some (opcode_registerInstr _ _ _ _ _)
      · rfl

/-- The decoder and the table agree on every access key of the windows: each of its 128 keys, under each winner, matches
exactly the row of what it decodes to. -/
theorem rowOpcodes_window (w : OverlapWinner) (z : Size) (write : Bool) (off : Offset) :
    rowOpcodes accessRows w (accessKey z write (serialAddr off)) =
      (decode w (.access (accessKey z write (serialAddr off)) 0#64)).opcode?.toList := by
  revert write off
  rcases z with _ | (_ | _ | _) <;> cases w <;> decide

/-- A key with its reserved bit clear and its address in the windows is one of the 128. -/
theorem eq_accessKey_serialAddr {k : AccessKey} (hres : keyReserved k = false)
    (hwin : inSerialWindow (keyAddr k) = true) :
    k = accessKey (keySize k) (keyWrite k) (serialAddr (offsetFrom serialBase (keyAddr k))) := by
  rw [serialAddr_offsetFrom hwin, accessKey_keyFields hres]

/-- The bits every access row fixes: the reserved bit and the address down to bit 3. -/
def windowMask : AccessKey := 0x2FFFFFFF8#36

/-- A key whose fixed bits are those of an access row has its reserved bit clear and its address in the windows. -/
theorem window_of_and_windowMask {k : AccessKey}
    (h : k &&& windowMask = 0x0F0000008#36 ∨ k &&& windowMask = 0x0F0000010#36) :
    keyReserved k = false ∧ inSerialWindow (keyAddr k) = true := by
  have hbit : (k &&& windowMask).getLsbD 33 = keyReserved k := by
    rw [BitVec.getLsbD_and, show windowMask.getLsbD 33 = true from rfl, Bool.and_true, keyReserved]
  have haddr : ((k &&& windowMask).extractLsb' 3 29).toNat = k.toNat / 2 ^ 3 % 2 ^ 29 := by
    rw [BitVec.extractLsb'_and, show windowMask.extractLsb' 3 29 = BitVec.allOnes 29 from rfl, BitVec.and_allOnes,
      BitVec.extractLsb'_toNat, Nat.shiftRight_eq_div_pow]
  rw [inSerialWindow_iff, keyAddr, BitVec.extractLsb'_toNat, Nat.shiftRight_zero, ← hbit]
  obtain hk | hk := h
  · rw [hk, show ((0x0F0000008#36).extractLsb' 3 29).toNat = 0x1E000001 from rfl] at haddr
    exact ⟨by rw [hk]; rfl, by omega, by omega⟩
  · rw [hk, show ((0x0F0000010#36).extractLsb' 3 29).toNat = 0x1E000002 from rfl] at haddr
    exact ⟨by rw [hk]; rfl, by omega, by omega⟩

/-- Every access row fixes the bits of `windowMask`, at one of the two values they have in the windows. -/
theorem accessRows_fix_windowMask : ∀ r ∈ accessRows, r.mask &&& windowMask = windowMask ∧
    (r.pattern &&& windowMask = 0x0F0000008#36 ∨ r.pattern &&& windowMask = 0x0F0000010#36) := by
  decide

/-- A key that matches an access row has its reserved bit clear and its address in the windows. -/
theorem window_of_rowMatches {w : OverlapWinner} {k : AccessKey} {r : Row 36} (hr : r ∈ accessRows)
    (h : rowMatches w k r = true) : keyReserved k = false ∧ inSerialWindow (keyAddr k) = true := by
  obtain ⟨hmask, hpattern⟩ := accessRows_fix_windowMask r hr
  simp only [rowMatches, Bool.and_eq_true, decide_eq_true_eq] at h
  rw [← h.1, BitVec.and_assoc, hmask] at hpattern
  exact window_of_and_windowMask hpattern

/-- Settles O3: on the keys of the windows by evaluation; no other key decodes to an operation, and none matches a
row. -/
theorem accessDecoderAgreesWithOpcodeTable : Obligations.AccessDecoderAgreesWithOpcodeTable := by
  intro w k d o
  rw [exists_instr_opcode_iff, exists_rowMatches_iff, opcode?_decode_access]
  by_cases hin : keyReserved k = false ∧ inSerialWindow (keyAddr k) = true
  · rw [eq_accessKey_serialAddr hin.1 hin.2, rowOpcodes_window, Option.mem_toList]
  · have hrows : rowOpcodes accessRows w k = [] := by
      simp only [rowOpcodes, List.map_eq_nil_iff, List.filter_eq_nil_iff]
      exact fun r hr h => hin (window_of_rowMatches hr h)
    have hdec : (decode w (.access k 0#64)).opcode? = none := by
      cases hres : keyReserved k with
      | true => rw [decode_access_reserved hres]; rfl
      | false =>
        have hout : route w (keyAddr k) = none := by
          rw [← Option.not_isSome_iff_eq_none, route_isSome_iff, ← inSerialWindow_iff]
          exact fun hwin => hin ⟨hres, hwin⟩
        rw [decode_access_outside hres hout]; rfl
    simp [hrows, hdec]

/-- An event key that matches a row which fixes its kind, and its reserved bits at 0: its fields. -/
theorem eventKey_of_matches {k m p : EventKey} (h : k &&& m = p) (hkind : eventKind m = 15#4)
    (hres : eventReserved m = 15#4) (hzero : eventReserved p = 0#4) :
    k = eventKey (eventKind p) (eventPayload k) ∧ eventPayload k &&& eventPayload m = eventPayload p := by
  subst h
  have hall (x : BitVec 4) : x &&& 15#4 = x := BitVec.and_allOnes
  have hk : eventKind (k &&& m) = eventKind k := by
    rw [eventKind, BitVec.extractLsb'_and, ← eventKind, ← eventKind, hkind, hall]
  have hr : eventReserved (k &&& m) = eventReserved k := by
    rw [eventReserved, BitVec.extractLsb'_and, ← eventReserved, ← eventReserved, hres, hall]
  rw [hk, eventKey_eventFields (hr ▸ hzero)]
  exact ⟨rfl, BitVec.extractLsb'_and.symm⟩

/-- Every event row fixes the kind, and the reserved bits at 0. -/
theorem eventRows_fix_kind : ∀ r ∈ eventRows,
    eventKind r.mask = 15#4 ∧ eventReserved r.mask = 15#4 ∧ eventReserved r.pattern = 0#4 := by
  decide

/-- A payload with its line bits free and the others 0 is a line's. -/
theorem eq_linePayload {p : Byte} (h : p &&& 0xFC#8 = 0#8) : ∃ l, p = linePayload l := by
  revert p
  decide

/-- The event keys of the spec match the row of their mnemonic. -/
theorem rowOpcodes_encode_event (w : OverlapWinner) :
    (∀ b, rowOpcodes eventRows w (eventKey 1#4 b) = [.evRx]) ∧
    (∀ l, rowOpcodes eventRows w (eventKey 2#4 (linePayload l)) = [.evRaise]) ∧
    (∀ l, rowOpcodes eventRows w (eventKey 3#4 (linePayload l)) = [.evLower]) ∧
    rowOpcodes eventRows w (eventKey 4#4 0#8) = [.evExpire] ∧
    rowOpcodes eventRows w (eventKey 5#4 0#8) = [.evReset] := by
  cases w <;> decide

/-- Settles O4: the keys the decoder accepts are looked up in the table; a key that matches a row is rebuilt from its
fields and decoded. -/
theorem eventDecoderAgreesWithOpcodeTable : Obligations.EventDecoderAgreesWithOpcodeTable := by
  intro w k o
  constructor
  · rintro ⟨i, h, rfl⟩
    rw [exists_rowMatches_iff]
    obtain ⟨hrx, hraise, hlower, hexpire, hreset⟩ := rowOpcodes_encode_event w
    obtain ⟨b, rfl, rfl⟩ | ⟨l, rfl, rfl⟩ | ⟨l, rfl, rfl⟩ | ⟨rfl, rfl⟩ | ⟨rfl, rfl⟩ := decode_event_cases h
    · rw [hrx]; exact List.mem_singleton.mpr rfl
    · rw [hraise]; exact List.mem_singleton.mpr rfl
    · rw [hlower]; exact List.mem_singleton.mpr rfl
    · rw [hexpire]; exact List.mem_singleton.mpr rfl
    · rw [hreset]; exact List.mem_singleton.mpr rfl
  · rintro ⟨r, hr, h, rfl⟩
    simp only [rowMatches, Bool.and_eq_true, decide_eq_true_eq] at h
    obtain ⟨hmatch, -⟩ := h
    obtain ⟨hkind, hres, hzero⟩ := eventRows_fix_kind r hr
    obtain ⟨hk, hp⟩ := eventKey_of_matches hmatch hkind hres hzero
    rw [hk]
    simp only [eventRows, List.mem_cons, List.not_mem_nil, or_false] at hr
    obtain rfl | rfl | rfl | rfl | rfl := hr
    · exact ⟨_, decode_receiveKey w _, rfl⟩
    · obtain ⟨l, hl⟩ := eq_linePayload hp
      rw [hl]
      exact ⟨_, decodeOfEncodeIsTheOperation w (.evRaise l) rfl, rfl⟩
    · obtain ⟨l, hl⟩ := eq_linePayload hp
      rw [hl]
      exact ⟨_, decodeOfEncodeIsTheOperation w (.evLower l) rfl, rfl⟩
    · obtain hl : eventPayload k = 0#8 := BitVec.and_allOnes.symm.trans hp
      rw [hl]
      exact ⟨_, decode_expiryKey w, rfl⟩
    · obtain hl : eventPayload k = 0#8 := BitVec.and_allOnes.symm.trans hp
      rw [hl]
      exact ⟨_, decodeOfEncodeIsTheOperation w .evReset rfl, rfl⟩

end Sys2Proof

/-! ## Interfaces and platform: the byte order, the snapshot, the machine map, machine assembly -/

namespace Sys2Proof.Machine

open Sys2Proof.Config

/-! ### The byte order and the snapshot (20_memory section 3, 10_state section 8) -/

/-- Settles O52. -/
theorem byteOrderPlacesTheLowByte : Obligations.ByteOrderPlacesTheLowByte := by
  refine ⟨fun v => ⟨rfl, rfl⟩, fun o v => ?_, fun o bs => ?_, fun v => rfl⟩
  · cases o <;> exact BitVec.extractLsb'_append_extractLsb'
  · obtain ⟨b0, b1⟩ := bs
    cases o with
    | big => exact Prod.ext BitVec.extractLsb'_append_eq_left BitVec.extractLsb'_append_eq_right
    | little => exact Prod.ext BitVec.extractLsb'_append_eq_right BitVec.extractLsb'_append_eq_left

/-- Settles O53: a snapshot holds every field of the serial device and the aggregator. -/
theorem snapshotRestoresTheFourFields : Obligations.SnapshotRestoresTheFourFields :=
  ⟨fun _ _ => rfl, fun _ _ => rfl⟩

/-! ### The machine map (20_memory section 5) -/

/-- A window is the addresses from its base on, by number. -/
theorem inWindow_iff (base : Addr) (span : Nat) (a : Addr) :
    inWindow base span a = true ↔ base.toNat ≤ a.toNat ∧ a.toNat < base.toNat + span := by
  simp [inWindow]

/-- The windows together are the serial window, which holds the aggregator's (20_memory R50). -/
theorem inSerialWindow_or_inAggWindow (a : Addr) :
    (inSerialWindow a || inAggWindow a) = true ↔ 0xF0000008 ≤ a.toNat ∧ a.toNat ≤ 0xF0000017 := by
  rw [Bool.or_eq_true, inSerialWindow_iff, inAggWindow_iff]
  refine ⟨?_, .inl⟩
  rintro (h | rfl | rfl)
  · exact h
  · decide
  · decide

/-- The region of an address, by number (20_memory R62). -/
theorem regionOf_eq (n : Nat) (a : Addr) :
    regionOf n a =
      if 0xF0000008 ≤ a.toNat ∧ a.toNat ≤ 0xF0000017 then some .mmio
      else if 0x00001000 ≤ a.toNat ∧ a.toNat ≤ 0x00020FFF then some .rom
      else if 0x10000000 ≤ a.toNat ∧ a.toNat ≤ 0x10000FFF then some .ocram
      else if 0x2FFFF000 ≤ a.toNat ∧ a.toNat < 0x2FFFF000 + n then some .extram
      else none := by
  have hrom : inWindow romBase romSize a = true ↔ 0x00001000 ≤ a.toNat ∧ a.toNat ≤ 0x00020FFF := by
    rw [inWindow_iff, show romBase.toNat = 0x00001000 from rfl, romSize]
    omega
  have hocram : inWindow ocramBase ocramSize a = true ↔ 0x10000000 ≤ a.toNat ∧ a.toNat ≤ 0x10000FFF := by
    rw [inWindow_iff, show ocramBase.toNat = 0x10000000 from rfl, ocramSize]
    omega
  have hextram : inWindow extramBase n a = true ↔ 0x2FFFF000 ≤ a.toNat ∧ a.toNat < 0x2FFFF000 + n :=
    inWindow_iff extramBase n a
  simp only [regionOf, inSerialWindow_or_inAggWindow, hrom, hocram, hextram]

/-- Settles O56: the regions' ranges are disjoint, external RAM's within the bound. -/
theorem machineMapRegionsDoNotReachTheWindows : Obligations.MachineMapRegionsDoNotReachTheWindows := by
  have hmmio (n : Nat) (a : Addr) : regionOf n a = some .mmio ↔ 0xF0000008 ≤ a.toNat ∧ a.toNat ≤ 0xF0000017 := by
    rw [regionOf_eq]
    split_ifs <;> simp [*]
  refine ⟨hmmio, fun n a => ?rom, fun n a => ?ocram, fun n a hn => ?extram, fun n w a _ => ?windows⟩
  case windows => rw [hmmio, ← route_isSome_iff w a, Option.isSome_iff_ne_none]
  case rom | ocram | extram =>
    rw [regionOf_eq]
    split_ifs <;> simp only [reduceCtorEq, false_iff, true_iff, Option.some.injEq] <;> omega

/-! ### Machine assembly (70_reset section 1) -/

/-- The largest external RAM, in bytes (20_memory R63). -/
theorem maxRamSize_eq : maxRamSize = 0xC0001008 := by decide

section

variable {c : BootConfig} (p : Params)

/-- A CPU variant that does not resolve is fatal first. -/
theorem assemble_unresolvable (h : c.cpuResolves = false) : assemble c p = .fatal .unresolvableCpuVariant := by
  rw [assemble, if_pos h]

/-- An external RAM that would reach the windows is refused next (20_memory R63). -/
theorem assemble_ram_overlaps (h : c.cpuResolves = true) (hram : 0xC0001008 < c.ramSize) :
    assemble c p = .refused (.ramOverlapsMmio c.ramSize) := by
  rw [assemble, if_neg (by simp [h]), maxRamSize_eq, if_pos hram]

/-- Otherwise the kernel decides. -/
theorem assemble_kernel (h : c.cpuResolves = true) (hram : c.ramSize ≤ 0xC0001008) :
    assemble c p = assembleKernel c p := by
  rw [assemble, if_neg (by simp [h]), maxRamSize_eq, if_neg (Nat.not_lt.mpr hram)]

/-- A ramdisk that fits beside a loaded kernel is placed at the page address. -/
theorem assembleKernel_ramdisk_fits {entry : Addr} {h size : Nat} (hk : c.kernel = some (.loaded entry h))
    (hi : c.initrdSize = some size) (hfit : roundUpToPage h + size ≤ c.ramSize) :
    assembleKernel c p = .launched (launchState c p entry (some (roundUpToPage h))) := by
  simp [assembleKernel, hk, hi, hfit]

/-- A ramdisk that does not fit is fatal. -/
theorem assembleKernel_ramdisk_too_big {entry : Addr} {h size : Nat} (hk : c.kernel = some (.loaded entry h))
    (hi : c.initrdSize = some size) (hbig : c.ramSize < roundUpToPage h + size) :
    assembleKernel c p = .fatal .ramdiskDoesNotFit := by
  simp [assembleKernel, hk, hi, Nat.not_le.mpr hbig]

variable {p}

/-- A configuration that launches passed the checks of the CPU and of the RAM. -/
theorem checks_of_launched {s : State} (h : assemble c p = .launched s) :
    c.cpuResolves = true ∧ c.ramSize ≤ 0xC0001008 ∧ assembleKernel c p = .launched s := by
  cases hcpu : c.cpuResolves with
  | false => simp [assemble_unresolvable p hcpu] at h
  | true =>
    obtain hbig | hram := Nat.lt_or_ge 0xC0001008 c.ramSize
    · simp [assemble_ram_overlaps p hcpu hbig] at h
    · exact ⟨rfl, hram, by rw [← assemble_kernel p hcpu hram, h]⟩

/-- The three ways the kernel's step launches: no kernel, a kernel alone, a kernel with a ramdisk that fits. -/
theorem assembleKernel_launched_cases {s : State} (h : assembleKernel c p = .launched s) :
    (c.kernel = none ∧ s = launchState c p romBase none) ∨
    (∃ entry high, c.kernel = some (.loaded entry high) ∧ c.initrdSize = none ∧ s = launchState c p entry none) ∨
    (∃ entry high size, c.kernel = some (.loaded entry high) ∧ c.initrdSize = some size ∧
      roundUpToPage high + size ≤ c.ramSize ∧ s = launchState c p entry (some (roundUpToPage high))) := by
  unfold assembleKernel at h
  rcases hk : c.kernel with _ | (_ | _ | _ | ⟨entry, high⟩)
  · exact .inl ⟨rfl, by simpa [hk] using h.symm⟩
  · simp [hk] at h
  · simp [hk] at h
  · simp [hk] at h
  · cases hi : c.initrdSize with
    | none => exact .inr (.inl ⟨entry, high, rfl, rfl, by simpa [hk, hi] using h.symm⟩)
    | some size =>
      by_cases hfit : roundUpToPage high + size ≤ c.ramSize
      · exact .inr (.inr ⟨entry, high, size, rfl, rfl, hfit, by simpa [hk, hi, hfit] using h.symm⟩)
      · simp [hk, hi, hfit] at h

end

/-- The page address is the first multiple of 4096 at or above the high-water mark (70_reset R195). -/
theorem roundUpToPage_spec (h : Nat) :
    roundUpToPage h % 4096 = 0 ∧ h ≤ roundUpToPage h ∧ roundUpToPage h < h + 4096 := by
  simp only [roundUpToPage, pageSize]
  omega

/-- The page address as the spec writes it. -/
theorem roundUpToPage_eq (h : Nat) : roundUpToPage h = (h + 4095) / 4096 * 4096 := by
  simp only [roundUpToPage, pageSize]
  omega

/-- Settles O54. -/
theorem assemblyLaunchesAsTheBootRulesSay : Obligations.AssemblyLaunchesAsTheBootRulesSay := by
  refine ⟨fun c p hcpu hram => ?_, fun c p s h => ?_⟩
  · rw [assemble_kernel p hcpu hram]
    refine ⟨fun hk => ?_, fun entry h hk hi => ?_, fun entry h size hk hi hfit => ?_⟩
    · exact ⟨_, by rw [assembleKernel, hk], rfl, rfl⟩
    · exact ⟨_, by simp only [assembleKernel, hk, hi]; rfl, rfl, rfl⟩
    · rw [← roundUpToPage_eq] at hfit ⊢
      exact ⟨_, assembleKernel_ramdisk_fits p hk hi hfit, rfl, rfl⟩
  · obtain ⟨hcpu, hram, hker⟩ := checks_of_launched h
    refine ⟨hcpu, hram, ?_⟩
    obtain ⟨hk, rfl⟩ | ⟨entry, high, hk, hi, rfl⟩ | ⟨entry, high, size, hk, hi, hfit, rfl⟩ :=
      assembleKernel_launched_cases hker
    · exact ⟨rfl, rfl, rfl, rfl, rfl, rfl, rfl, .inl ⟨hk, rfl, rfl⟩⟩
    · exact ⟨rfl, rfl, rfl, rfl, rfl, rfl, rfl, .inr ⟨entry, high, hk, rfl, .inl ⟨hi, rfl⟩⟩⟩
    · obtain ⟨hpage, hlow, hhigh⟩ := roundUpToPage_spec high
      exact ⟨rfl, rfl, rfl, rfl, rfl, rfl, rfl,
        .inr ⟨entry, high, hk, rfl, .inr ⟨size, _, hi, rfl, hpage, hlow, hhigh, hfit⟩⟩⟩

/-- Settles O55. -/
theorem fatalConfigurationsHaveNoLaunchState : Obligations.FatalConfigurationsHaveNoLaunchState := by
  refine ⟨fun c p => assemble_unresolvable p, fun c p => assemble_ram_overlaps p, fun c p hcpu hram => ?_⟩
  rw [assemble_kernel p hcpu hram]
  refine ⟨fun hk => ?_, fun hk => ?_, fun hk => ?_, fun entry h size hk hi hbig => ?_⟩
  · rw [assembleKernel, hk]
  · rw [assembleKernel, hk]
  · rw [assembleKernel, hk]
  · rw [← roundUpToPage_eq] at hbig
    exact assembleKernel_ramdisk_too_big p hk hi hbig

end Sys2Proof.Machine
